-- ==== Sys2Proof/Word.lean ====
section
/-!
DEFINITION. The two bit-vector widths of the hardware: the byte of every byte space (20_memory.md R50) and the
16-bit word of the accumulator, the length field and the checksum field (00_scope.md R15).
-/

namespace Sys2Proof

/-- A byte: 8 bits, unsigned (00_scope.md R13). -/
abbrev Byte := BitVec 8

/-- A 16-bit unsigned value: `crc_acc`, `cap_len`, every length and every checksum (00_scope.md R15). -/
abbrev Word := BitVec 16

end Sys2Proof
end

