-- ==== Sys2Proof/Config.lean ====
section
/-!
DEFINITION. The constants the document fixes (00_scope.md R10) and the default of the one configurable value it
names (00_scope.md R11). `MAX_BUF` and `OBS_EVENTS` themselves are parameters of an instance and stand in `State`.
-/

namespace Sys2Proof.Config

/-- `START_MARKER`, the first byte of every frame (00_scope.md R10). -/
def startMarker : Byte := 0xAA#8

/-- `END_MARKER`, the last byte of every frame (00_scope.md R10). -/
def endMarker : Byte := 0x55#8

/-- `CRC_POLY` (00_scope.md R10). -/
def crcPoly : Word := 0x1021#16

/-- `CRC_INIT` (00_scope.md R10). -/
def crcInit : Word := 0xFFFF#16

/-- `MAX_PAYLOAD`, the largest payload `ENCODE` accepts (00_scope.md R10). -/
def maxPayload : Nat := 65535

/-- `HDR_BYTES`: start marker, version and the two length bytes (00_scope.md R10; 90_conflicts.md C2). -/
def hdrBytes : Nat := 4

/-- `OVERHEAD`: frame size minus payload size (00_scope.md R10; 90_conflicts.md C1). -/
def overhead : Nat := 7

/-- `DROP_ON_FAIL`: bytes dropped from the front of the buffer after a failed candidate (00_scope.md R10). -/
def dropOnFail : Nat := 1

/-- The default of `MAX_BUF`, 1 MiB (00_scope.md R11). -/
def defaultMaxBuf : Nat := 1048576

/-- The value `State.reset` gives the open parameter `OBS_EVENTS` (00_scope.md R11).
DESIGN CHOICE (log 2), unsafe: the spec leaves the parameter open; statements hold for both values. -/
def defaultObsEvents : Bool := true

end Sys2Proof.Config
end

