-- ==== Sys2Proof/Syntax.lean ====
section
/-!
DEFINITION. The operations of the hardware as syntax, one constructor per row of spec/opcode_table.json, the inputs a
host can present, and the names under which a malformed command packet is rejected.
-/

namespace Sys2Proof

/-- What the host puts before the instance. `command` is a command packet (30_encoding.md R91). `wire` is a segment of
received bytes that the host's read loop hands to `FEED` (00_scope.md R3); it is a shorthand for the packet of that
`FEED`. DESIGN CHOICE (log 6), safe. -/
inductive HostInput where
  | command (packet : List Byte)
  | wire (segment : List Byte)
  deriving DecidableEq, Repr

/-- The operations, named as in spec/opcode_table.json. Offsets are naturals, as in the rules (00_scope.md R15); that a
packet holds only 32 bits of them is a condition of `WellFormed`. -/
inductive Instr where
  /-- `CS.BLOCK bytes` (40_checksum.md R130). -/
  | csBlock (bytes : List Byte)
  /-- `CS.INIT` (40_checksum.md R131). -/
  | csInit
  /-- `CS.UPDATE bytes` (40_checksum.md R132). -/
  | csUpdate (bytes : List Byte)
  /-- `CS.READ` (40_checksum.md R133). -/
  | csRead
  /-- `ENCODE version, payload` (41_frame_codec.md R151). -/
  | encode (version : Byte) (payload : List Byte)
  /-- `DEC.HDR offset, bytes` (41_frame_codec.md R154). -/
  | decHdr (offset : Nat) (bytes : List Byte)
  /-- `DEC.FULL offset, length, bytes` (41_frame_codec.md R159). -/
  | decFull (offset : Nat) (length : Word) (bytes : List Byte)
  /-- `DECODE bytes` (41_frame_codec.md R166). -/
  | decode (bytes : List Byte)
  /-- `FEED chunk` (42_stream_decoder.md R191). -/
  | feed (chunk : List Byte)
  /-- `RESET` (42_stream_decoder.md R206). -/
  | reset
  /-- `STATUS` (42_stream_decoder.md R207). -/
  | status
  /-- `(reserved)`: a packet whose first byte is no assigned opcode (30_encoding.md R96). -/
  | reserved (opcode : Byte) (rest : List Byte)
  /-- `FRAME.HEADER`: the four header bytes of a wire frame arrive (30_encoding.md R80; log 6). -/
  | frameHeader (version : Byte) (length : Word)
  /-- `FRAME.TRAILER`: the three bytes that end a wire frame arrive (30_encoding.md R80; log 6). -/
  | frameTrailer (checksum : Word)
  deriving DecidableEq, Repr

/-- Why an input is no instruction: the ways in which a command packet of no reserved opcode is malformed
(30_encoding.md R96), and a wire segment longer than the largest chunk (00_scope.md R11). -/
inductive DecodeError where
  /-- The packet has no byte at all. -/
  | emptyPacket
  /-- The packet is shorter than the fixed part of its format. -/
  | tooShort
  /-- `dlen` differs from the number of bytes that follow it. -/
  | dlenMismatch
  /-- A format N packet is longer than its one byte. -/
  | trailingBytes
  /-- A wire segment of more than 2^32 - 1 bytes: no `dlen` equals its length, so the packet it is a shorthand for is
  malformed (00_scope.md R11; 30_encoding.md R92, R96; log 6). -/
  | segmentTooLong
  deriving DecidableEq, Repr

end Sys2Proof
end

