-- ==== Sys2Proof/Machine/State.lean ====
section
/-!
DEFINITION. The state of one instance (10_state.md R20, which lists all of it), the outcomes and response records of
its operations (30_encoding.md R94, R95; 60_exceptions.md R240), and the state after hardware reset (R42, R281).
-/

namespace Sys2Proof.Machine

/-- The buffer space, the one byte space that lasts beyond an operation: offsets 0 to `|buffer| - 1` (10_state.md R22,
R33; 20_memory.md R50). A plain list of bytes is its one canonical form (log 7). -/
abbrev Memory := List Byte

/-- The form of the buffer: it never holds more than `MAX_BUF` bytes (20_memory.md R69). -/
def Memory.wf (m : Memory) (maxBuf : Nat) : Bool := decide (m.length ≤ maxBuf)

/-- `state`, the phase of the Stream Decoder. `EMIT` is the name of an action inside one drain step and never the
value of `state` between operations (10_state.md R24; 92_eei_decisions.md D26; log 8). -/
inductive Phase where
  | scanning
  | headerWait
  | bodyWait
  deriving DecidableEq, Repr

/-- The outcomes other than `OK` (60_exceptions.md R240). -/
inductive Failure where
  /-- Fewer bytes available than needed; a control signal, not an error (R241). -/
  | incomplete
  /-- The byte at `offset` is not the start marker (R242). -/
  | invalidMarker (offset : Nat)
  /-- The computed and the stored checksum differ (R243). -/
  | invalidChecksum
  /-- The byte after the checksum is not the end marker (R244). -/
  | invalidEndMarker
  /-- The payload of an `ENCODE` is longer than 65535 bytes (R245). -/
  | payloadTooLarge
  /-- The chunk of a `FEED` would push the buffer past the bound, or `fault` is 1 (R246). -/
  | bufferOverflow
  /-- A malformed command packet or a reserved opcode (R247). -/
  | illegalCommand
  deriving DecidableEq, Repr

/-- What `DEC.HDR` extracts (41_frame_codec.md R157). -/
structure Header where
  version : Byte
  length : Word
  deriving DecidableEq, Repr

/-- What `DEC.FULL` returns on success (41_frame_codec.md R163). -/
structure Frame where
  version : Byte
  length : Word
  payload : List Byte
  checksum : Word
  deriving DecidableEq, Repr

/-- What `STATUS` reads out (42_stream_decoder.md R207). -/
structure StatusView where
  phase : Phase
  fault : Bool
  capLen : Word
  bufferLen : Nat
  crcAcc : Word
  deriving DecidableEq, Repr

/-- The result that goes with the outcome `OK` (30_encoding.md R94). -/
inductive Reply where
  /-- `CS.INIT`, `CS.UPDATE`, `RESET`: nothing. -/
  | nothing
  /-- `CS.BLOCK`, `CS.READ`: a 16-bit value. -/
  | value (v : Word)
  /-- `ENCODE`: the bytes of a frame. -/
  | encoded (bytes : List Byte)
  /-- `DEC.HDR`: version and length. -/
  | header (h : Header)
  /-- `DEC.FULL`, `DECODE`: a validated frame. -/
  | frame (f : Frame)
  /-- `FEED`: the emitted payloads in order. -/
  | payloads (ps : List (List Byte))
  /-- `STATUS`: the read-out. -/
  | status (v : StatusView)
  deriving DecidableEq, Repr

/-- The response to one operation: a result or an outcome that is not `OK` (00_scope.md R16; 30_encoding.md R94). -/
inductive Response where
  | ok (r : Reply)
  | failed (f : Failure)
  deriving DecidableEq, Repr

/-- One instance. Every field but the last two is the spec's; `inbox` and `outbox` stand for the two directions of the
command channel (30_encoding.md R91; log 4). -/
structure State where
  /-- `crc_acc` (10_state.md R21). -/
  crcAcc : Word
  /-- `buffer` (10_state.md R22). -/
  buffer : Memory
  /-- `scan_cursor`, the constant 0 (10_state.md R23; log 8). -/
  scanCursor : Fin 1
  /-- `state` (10_state.md R24). -/
  phase : Phase
  /-- `cap_len` (10_state.md R25). -/
  capLen : Word
  /-- `fault` (10_state.md R26). -/
  fault : Bool
  /-- `MAX_BUF`, static (10_state.md R27; log 1). -/
  maxBuf : Nat
  /-- `OBS_EVENTS`, static (00_scope.md R11; log 2). -/
  obsEvents : Bool
  /-- The event stream (30_encoding.md R97). -/
  events : List Byte
  /-- The host's inputs not yet executed, oldest first (the model's own; log 4). -/
  inbox : List HostInput
  /-- The responses returned so far, oldest first (the model's own; log 4). -/
  outbox : List Response
  deriving DecidableEq, Repr

/-- Reasons for which the machine stops with a fault: there is none. Every outcome of 60_exceptions.md R240 is a
response after which the next operation can be executed (log 16). -/
inductive Fault where
  deriving DecidableEq, Repr

/-- Reasons for which an instruction has no meaning in the model. -/
inductive Refusal where
  /-- Raised by `exec` alone, for an instruction that has no meaning yet; safe, since nothing follows from a step that
  is not taken. No arm of this model raises it. -/
  | notModelled (mnemonic : String)
  deriving DecidableEq, Repr

/-- Hardware reset: the creation of an instance with its two static parameters (10_state.md R42;
70_reset_and_hazards.md R280, R281). -/
def State.create (maxBuf : Nat) (obsEvents : Bool) : State where
  crcAcc := Config.crcInit
  buffer := []
  scanCursor := 0
  phase := .scanning
  capLen := 0#16
  fault := false
  maxBuf := maxBuf
  obsEvents := obsEvents
  events := []
  inbox := []
  outbox := []

/-- The machine right after reset, with the default `MAX_BUF` (10_state.md R42; logs 2, 3). -/
def State.reset : State := State.create Config.defaultMaxBuf Config.defaultObsEvents

end Sys2Proof.Machine
end

