-- ==== Sys2Proof/Machine/Flags.lean ====
section
/-!
DEFINITION. The numbers by which outcomes and phases are told (30_encoding.md R95; 10_state.md R24) and the one stored
flag, `fault` (10_state.md R26, R31). The hardware has no carry, zero, sign or overflow flag.
-/

namespace Sys2Proof.Machine

/-- The status code of `OK` (30_encoding.md R95). -/
def okCode : Byte := 0x00#8

/-- The status code of an outcome other than `OK` (30_encoding.md R95). -/
def failureCode : Failure → Byte
  | .incomplete => 0x01#8
  | .invalidMarker _ => 0x02#8
  | .invalidChecksum => 0x03#8
  | .invalidEndMarker => 0x04#8
  | .payloadTooLarge => 0x05#8
  | .bufferOverflow => 0x06#8
  | .illegalCommand => 0x07#8

/-- The code by which `STATUS` reports `state` (10_state.md R24). -/
def phaseCode : Phase → Byte
  | .scanning => 0x00#8
  | .headerWait => 0x01#8
  | .bodyWait => 0x02#8

/-- The byte by which `STATUS` reports `fault` (30_encoding.md R100). -/
def faultCode (fault : Bool) : Byte := if fault then 0x01#8 else 0x00#8

/-- `fault <- 1` (10_state.md R26). -/
def State.setFault (s : State) : State := { s with fault := true }

/-- `fault <- 0` (10_state.md R26). -/
def State.clearFault (s : State) : State := { s with fault := false }

end Sys2Proof.Machine
end

