-- ==== Sys2Proof/Machine/Operands.lean ====
section
/-!
DEFINITION. The primitives over byte sequences that every operation uses to touch its operand bytes and the buffer
(00_scope.md R14; 20_memory.md R51, R54, R58). No operation of the hardware has any other operand form.
-/

namespace Sys2Proof.Machine

/-- `s[i]`. Every use stands behind an availability check (20_memory.md R54), so the 0 given beyond the end of `s` is
never an operand of any rule (log 14). -/
def byteAt (s : List Byte) (i : Nat) : Byte := s.getD i 0#8

/-- `avail(s, off)`: the number of bytes available from `off` (20_memory.md R54). -/
def avail (s : List Byte) (off : Nat) : Nat :=
  if off ≤ s.length then s.length - off else 0

/-- The half-open slice `s[a..b)` (00_scope.md R14). -/
def slice (s : List Byte) (a b : Nat) : List Byte := (s.drop a).take (b - a)

/-- The 16-bit value of two bytes, the more significant first (20_memory.md R51). -/
def wordOf (hi lo : Byte) : Word := hi ++ lo

/-- `u16be(s, i) = s[i] * 256 + s[i+1]` (20_memory.md R51). -/
def u16be (s : List Byte) (i : Nat) : Word := wordOf (byteAt s i) (byteAt s (i + 1))

/-- `be16(v) = [v[15:8], v[7:0]]` (20_memory.md R51). -/
def be16 (v : Word) : List Byte := [v.extractLsb' 8 8, v.extractLsb' 0 8]

/-- The 32-bit value of four bytes, the most significant first (00_scope.md R14, `u32be`). -/
def dwordOf (b3 b2 b1 b0 : Byte) : BitVec 32 := b3 ++ b2 ++ b1 ++ b0

/-- `be32(v)`, the four bytes of a 32-bit field of a packet (00_scope.md R14). -/
def be32 (v : BitVec 32) : List Byte :=
  [v.extractLsb' 24 8, v.extractLsb' 16 8, v.extractLsb' 8 8, v.extractLsb' 0 8]

/-- `find(s, 0xAA)` searched from position `start`: the least index `i ≥ start` with `s[i] = 0xAA`, or `none`
(20_memory.md R58; 00_scope.md R14). -/
def findMarker (s : List Byte) (start : Nat) : Option Nat :=
  ((s.drop start).findIdx? (· == Config.startMarker)).map (· + start)

/-- The four bytes a frame of this version and length begins with (30_encoding.md R80). -/
def headerBytes (version : Byte) (length : Word) : List Byte :=
  Config.startMarker :: version :: be16 length

/-- The three bytes a frame of this checksum ends with (30_encoding.md R80). -/
def trailerBytes (checksum : Word) : List Byte := be16 checksum ++ [Config.endMarker]

end Sys2Proof.Machine
end

