-- ==== Sys2Proof/Machine/Ops.lean ====
section
/-!
DEFINITION. The named operations over the state: the three buffer primitives (20_memory.md R55 to R57), returning a
response (30_encoding.md R91), the event stream (R97), what happens when a failure is met (60_exceptions.md R250 to
R252) and the recovery from it (R254).
-/

namespace Sys2Proof.Machine

/-- Reading one byte of the buffer; `none` at or beyond `|buffer|` (20_memory.md R54). -/
def State.readByte (s : State) (offset : Nat) : Option Byte := s.buffer[offset]?

/-- `Append(chunk)` (20_memory.md R55). -/
def State.appendChunk (s : State) (chunk : List Byte) : State := { s with buffer := s.buffer ++ chunk }

/-- `DropFront(n)`; it empties the buffer when `n > |buffer|` (20_memory.md R56). -/
def State.dropFront (s : State) (n : Nat) : State := { s with buffer := s.buffer.drop n }

/-- `DiscardAll()` (20_memory.md R57). -/
def State.discardAll (s : State) : State := { s with buffer := [] }

/-- `state <- p`, the analogue of setting a program counter (00_scope.md R15; 10_state.md R30). -/
def State.enter (s : State) (p : Phase) : State := { s with phase := p }

/-- `cap_len <- len` (10_state.md R25). -/
def State.capture (s : State) (len : Word) : State := { s with capLen := len }

/-- Returns the response of the operation (30_encoding.md R91). -/
def State.respond (s : State) (r : Response) : State := { s with outbox := s.outbox ++ [r] }

/-- `event(f)`: one byte onto the event stream, if there is one (30_encoding.md R97). -/
def State.event (s : State) (f : Failure) : State :=
  if s.obsEvents then { s with events := s.events ++ [failureCode f] } else s

/-- Entry of an absorbed failure inside `FEED` (60_exceptions.md R250): one event, `DropFront(1)`, `cap_len <- 0`,
`state <- SCANNING`; nothing is saved. That `InvalidMarker` clears `cap_len` too is R250's (DEDUCED, log 17). -/
def State.absorbFailure (s : State) (f : Failure) : State :=
  (((s.event f).dropFront Config.dropOnFail).capture 0#16).enter .scanning

/-- Entry of the fatal failure (60_exceptions.md R251): `fault <- 1` and the response; nothing else. -/
def State.raiseOverflow (s : State) : State := s.setFault.respond (.failed .bufferOverflow)

/-- A failure that has no entry action (60_exceptions.md R252): the outcome is the response. -/
def State.answerFailure (s : State) (f : Failure) : State := s.respond (.failed f)

/-- The response to a malformed packet or a reserved opcode (30_encoding.md R96; 60_exceptions.md R247). -/
def State.answerIllegal (s : State) : State := s.answerFailure .illegalCommand

/-- The response of an operation that is a pure function: its result, or its failure with no entry action
(60_exceptions.md R252). -/
def State.answer (s : State) (result : Except Failure Reply) : State :=
  match result with
  | .ok r => s.respond (.ok r)
  | .error f => s.answerFailure f

/-- Clearing the decoder state, the one recovery from `BufferOverflow` (42_stream_decoder.md R206;
60_exceptions.md R254): `DiscardAll(); state <- SCANNING; cap_len <- 0; fault <- 0`. -/
def State.clearDecoder (s : State) : State :=
  (((s.discardAll).enter .scanning).capture 0#16).clearFault

end Sys2Proof.Machine
end

