-- ==== Sys2Proof/Machine/Checksum.lean ====
section
/-!
DEFINITION. The Checksum Engine (40_checksum.md): the function and its operations `CS.BLOCK`, `CS.INIT`, `CS.UPDATE`,
`CS.READ`.
-/

namespace Sys2Proof.Machine

/-- `crc_bit(c)`: the bit tested is bit 15 of the value before the shift (40_checksum.md R123). -/
def crcBit (c : Word) : Word :=
  if c.getLsbD 15 then (c <<< 1) ^^^ Config.crcPoly else c <<< 1

/-- `crc_byte(c, b) = crc_bit^8(c XOR (zext_16(b) << 8))` (40_checksum.md R124, R126). -/
def crcByte (c : Word) (b : Byte) : Word :=
  crcBit (crcBit (crcBit (crcBit (crcBit (crcBit (crcBit (crcBit (c ^^^ (b.zeroExtend 16 <<< 8)))))))))

/-- `fold(crc_byte, c, s)` (40_checksum.md R124). -/
def crcFold (c : Word) (bytes : List Byte) : Word := bytes.foldl crcByte c

/-- `checksum(s)` (40_checksum.md R122, in the form of R124). -/
def checksum (bytes : List Byte) : Word := crcFold Config.crcInit bytes

/-- `CS.BLOCK bytes` (40_checksum.md R130). -/
def execCsBlock (bytes : List Byte) (s : State) : Host.Outcome State Fault Refusal :=
  .next (s.respond (.ok (.value (checksum bytes))))

/-- `CS.INIT` (40_checksum.md R131). -/
def execCsInit (s : State) : Host.Outcome State Fault Refusal :=
  .next ({ s with crcAcc := Config.crcInit }.respond (.ok .nothing))

/-- `CS.UPDATE bytes` (40_checksum.md R132). -/
def execCsUpdate (bytes : List Byte) (s : State) : Host.Outcome State Fault Refusal :=
  .next ({ s with crcAcc := crcFold s.crcAcc bytes }.respond (.ok .nothing))

/-- `CS.READ` (40_checksum.md R133). -/
def execCsRead (s : State) : Host.Outcome State Fault Refusal :=
  .next (s.respond (.ok (.value s.crcAcc)))

end Sys2Proof.Machine
end

