-- ==== Sys2Proof/Machine/FrameCodec.lean ====
section
/-!
DEFINITION. The Frame Codec (41_frame_codec.md): the pure functions and the operations `ENCODE`, `DEC.HDR`,
`DEC.FULL`, `DECODE`.
-/

namespace Sys2Proof.Machine

/-- `version ‖ length ‖ payload`, the checksummed span of a frame (41_frame_codec.md R151; 30_encoding.md R83). -/
def frameBody (version : Byte) (payload : List Byte) : List Byte :=
  version :: be16 (BitVec.ofNat 16 payload.length) ++ payload

/-- The frame of a payload of at most 65535 bytes (41_frame_codec.md R151). -/
def frameOf (version : Byte) (payload : List Byte) : List Byte :=
  Config.startMarker :: frameBody version payload ++ trailerBytes (checksum (frameBody version payload))

/-- `Encode(version, payload)` (41_frame_codec.md R151, R152). -/
def encodeFrame (version : Byte) (payload : List Byte) : Except Failure (List Byte) :=
  if payload.length > Config.maxPayload then .error .payloadTooLarge else .ok (frameOf version payload)

/-- `Decode-header(bytes, offset)` (41_frame_codec.md R154 to R157). -/
def decodeHeader (bytes : List Byte) (offset : Nat) : Except Failure Header :=
  if avail bytes offset < Config.hdrBytes then .error .incomplete
  else if byteAt bytes offset ≠ Config.startMarker then .error (.invalidMarker offset)
  else .ok { version := byteAt bytes (offset + 1), length := u16be bytes (offset + 2) }

/-- `Decode-full(bytes, offset, length)` (41_frame_codec.md R159 to R165). -/
def decodeFull (bytes : List Byte) (offset : Nat) (length : Word) : Except Failure Frame :=
  let len := length.toNat
  if avail bytes offset < Config.overhead + len then .error .incomplete
  else
    let computed := checksum (slice bytes (offset + 1) (offset + 4 + len))
    let stored := u16be bytes (offset + 4 + len)
    if computed ≠ stored then .error .invalidChecksum
    else if byteAt bytes (offset + 6 + len) ≠ Config.endMarker then .error .invalidEndMarker
    else .ok { version := byteAt bytes (offset + 1), length := length,
               payload := slice bytes (offset + 4) (offset + 4 + len), checksum := stored }

/-- `DECODE(bytes)`: the header, then the whole frame, at offset 0 (41_frame_codec.md R166). -/
def decodeFrame (bytes : List Byte) : Except Failure Frame :=
  match decodeHeader bytes 0 with
  | .error f => .error f
  | .ok h => decodeFull bytes 0 h.length

/-- `ENCODE version, payload` (41_frame_codec.md R151). -/
def execEncode (version : Byte) (payload : List Byte) (s : State) : Host.Outcome State Fault Refusal :=
  .next (s.answer ((encodeFrame version payload).map Reply.encoded))

/-- `DEC.HDR offset, bytes` (41_frame_codec.md R154). -/
def execDecHdr (offset : Nat) (bytes : List Byte) (s : State) : Host.Outcome State Fault Refusal :=
  .next (s.answer ((decodeHeader bytes offset).map Reply.header))

/-- `DEC.FULL offset, length, bytes` (41_frame_codec.md R159). -/
def execDecFull (offset : Nat) (length : Word) (bytes : List Byte) (s : State) : Host.Outcome State Fault Refusal :=
  .next (s.answer ((decodeFull bytes offset length).map Reply.frame))

/-- `DECODE bytes` (41_frame_codec.md R166). -/
def execDecode (bytes : List Byte) (s : State) : Host.Outcome State Fault Refusal :=
  .next (s.answer ((decodeFrame bytes).map Reply.frame))

end Sys2Proof.Machine
end

