-- ==== Sys2Proof/Machine/StreamDecoder.lean ====
section
/-!
DEFINITION. The Stream Decoder (42_stream_decoder.md): the drain loop and the operations `FEED`, `RESET`, `STATUS`.
-/

namespace Sys2Proof.Machine

/-- What one pass through the drain loop does (42_stream_decoder.md R195). -/
inductive Pass where
  /-- The loop stops in this state. -/
  | stop (s : State)
  /-- The loop goes on from this state, having emitted this payload if there is one. -/
  | again (s : State) (emitted : Option (List Byte))
  deriving DecidableEq, Repr

/-- Steps 1 and 2, `SCANNING` (42_stream_decoder.md R196, R197). -/
def scanPass (s : State) : Pass :=
  match findMarker s.buffer s.scanCursor.val with
  | none => .stop s.discardAll
  | some i => .again ((s.dropFront i).enter .headerWait) none

/-- Step 3, `HEADER_WAIT` (42_stream_decoder.md R198). -/
def headerPass (s : State) : Pass :=
  match decodeHeader s.buffer 0 with
  | .error .incomplete => .stop s
  | .error f => .again (s.absorbFailure f) none
  | .ok h => .again ((s.capture h.length).enter .bodyWait) none

/-- The end of step 4 on success: the frame is dropped (42_stream_decoder.md R200). -/
def State.consumeFrame (s : State) : State :=
  ((s.dropFront (Config.overhead + s.capLen.toNat)).capture 0#16).enter .scanning

/-- Step 4, `BODY_WAIT` (42_stream_decoder.md R199, R200); `EMIT` is the arm that emits. -/
def bodyPass (s : State) : Pass :=
  match decodeFull s.buffer 0 s.capLen with
  | .error .incomplete => .stop s
  | .error f => .again (s.absorbFailure f) none
  | .ok f => .again s.consumeFrame (some f.payload)

/-- One pass: the step of the current `state` (42_stream_decoder.md R195, R218). -/
def drainPass (s : State) : Pass :=
  match s.phase with
  | .scanning => scanPass s
  | .headerWait => headerPass s
  | .bodyWait => bodyPass s

/-- At most `passes` passes of the drain loop: the state it ends in and the payloads emitted, in order. -/
def drainLoop : Nat → State → State × List (List Byte)
  | 0, s => (s, [])
  | n + 1, s =>
    match drainPass s with
    | .stop t => (t, [])
    | .again t emitted =>
      let r := drainLoop n t
      (r.1, emitted.toList ++ r.2)

/-- `Drain()`: at most `3 * (|buffer| + 1)` passes run, so the loop has stopped by then (42_stream_decoder.md R195,
R202; log 11). -/
def drain (s : State) : State × List (List Byte) := drainLoop (3 * (s.buffer.length + 1)) s

/-- `FEED(chunk)` (42_stream_decoder.md R191 to R194). -/
def feedChunk (chunk : List Byte) (s : State) : State :=
  if s.fault then s.answerFailure .bufferOverflow
  else if s.buffer.length + chunk.length > s.maxBuf then s.raiseOverflow
  else
    let r := drain (s.appendChunk chunk)
    r.1.respond (.ok (.payloads r.2))

/-- The read-out of `STATUS` (42_stream_decoder.md R207). -/
def State.statusView (s : State) : StatusView where
  phase := s.phase
  fault := s.fault
  capLen := s.capLen
  bufferLen := s.buffer.length
  crcAcc := s.crcAcc

/-- `FEED chunk` (42_stream_decoder.md R191). -/
def execFeed (chunk : List Byte) (s : State) : Host.Outcome State Fault Refusal :=
  .next (feedChunk chunk s)

/-- `RESET` (42_stream_decoder.md R206). -/
def execReset (s : State) : Host.Outcome State Fault Refusal :=
  .next (s.clearDecoder.respond (.ok .nothing))

/-- `STATUS` (42_stream_decoder.md R207). -/
def execStatus (s : State) : Host.Outcome State Fault Refusal :=
  .next (s.respond (.ok (.status s.statusView)))

end Sys2Proof.Machine
end

