-- ==== Sys2Proof/Machine/CommandChannel.lean ====
section
/-!
DEFINITION. The rows of spec/opcode_table.json that are no operation of the document: the reserved opcodes
(30_encoding.md R96) and the two fixed parts of the wire frame (R80), whose arrival is a `FEED` of their bytes (log 6).
-/

namespace Sys2Proof.Machine

/-- `(reserved)`: the response is `IllegalCommand` and no state changes, whatever follows the opcode
(30_encoding.md R96). -/
def execReserved (_opcode : Byte) (_rest : List Byte) (s : State) : Host.Outcome State Fault Refusal :=
  .next s.answerIllegal

/-- `FRAME.HEADER`: the host feeds the four header bytes (30_encoding.md R80; 42_stream_decoder.md R191; log 6). -/
def execFrameHeader (version : Byte) (length : Word) (s : State) : Host.Outcome State Fault Refusal :=
  .next (feedChunk (headerBytes version length) s)

/-- `FRAME.TRAILER`: the host feeds the three bytes that end a frame (30_encoding.md R80; 42_stream_decoder.md R191;
log 6). -/
def execFrameTrailer (checksum : Word) (s : State) : Host.Outcome State Fault Refusal :=
  .next (feedChunk (trailerBytes checksum) s)

end Sys2Proof.Machine
end

