-- ==== Sys2Proof/Machine/Dispatch.lean ====
section
/-!
DEFINITION. One arm per instruction: each is one direct call of its meaning.
-/

namespace Sys2Proof.Machine

def exec (i : Instr) (s : State) : Host.Outcome State Fault Refusal :=
  match i with
  | .csBlock bytes => Sys2Proof.Machine.execCsBlock bytes s
  | .csInit => Sys2Proof.Machine.execCsInit s
  | .csUpdate bytes => Sys2Proof.Machine.execCsUpdate bytes s
  | .csRead => Sys2Proof.Machine.execCsRead s
  | .encode version payload => Sys2Proof.Machine.execEncode version payload s
  | .decHdr offset bytes => Sys2Proof.Machine.execDecHdr offset bytes s
  | .decFull offset length bytes => Sys2Proof.Machine.execDecFull offset length bytes s
  | .decode bytes => Sys2Proof.Machine.execDecode bytes s
  | .feed chunk => Sys2Proof.Machine.execFeed chunk s
  | .reset => Sys2Proof.Machine.execReset s
  | .status => Sys2Proof.Machine.execStatus s
  | .reserved opcode rest => Sys2Proof.Machine.execReserved opcode rest s
  | .frameHeader version length => Sys2Proof.Machine.execFrameHeader version length s
  | .frameTrailer checksum => Sys2Proof.Machine.execFrameTrailer checksum s

end Sys2Proof.Machine
end

