-- ==== Sys2Proof/Machine/OpcodeMap.lean ====
section
/-!
DEFINITION. The opcode map of the command channel (30_encoding.md R93) and the fixed part of each packet format (R92).
-/

namespace Sys2Proof.Machine

/-- The eleven operations that have an opcode (30_encoding.md R93). -/
inductive Operation where
  | csBlock | csInit | csUpdate | csRead | encode | decHdr | decFull | decode | feed | reset | status
  deriving DecidableEq, Repr

/-- The five command packet formats (30_encoding.md R92). -/
inductive Format where
  | n | d | vd | od | old
  deriving DecidableEq, Repr

/-- Every operation, in the order of the opcode map. -/
def operations : List Operation :=
  [.csBlock, .csInit, .csUpdate, .csRead, .encode, .decHdr, .decFull, .decode, .feed, .reset, .status]

/-- The opcode of an operation (30_encoding.md R93). -/
def opcodeOf : Operation → Byte
  | .csBlock => 0x01#8
  | .csInit => 0x02#8
  | .csUpdate => 0x03#8
  | .csRead => 0x04#8
  | .encode => 0x10#8
  | .decHdr => 0x11#8
  | .decFull => 0x12#8
  | .decode => 0x13#8
  | .feed => 0x20#8
  | .reset => 0x21#8
  | .status => 0x22#8

/-- The operation an opcode names; `none` for a reserved opcode (30_encoding.md R93, R96). -/
def operationOf (opcode : Byte) : Option Operation := operations.find? fun o => opcodeOf o == opcode

/-- The packet format of an operation (30_encoding.md R93). -/
def formatOf : Operation → Format
  | .csInit | .csRead | .reset | .status => .n
  | .csBlock | .csUpdate | .decode | .feed => .d
  | .encode => .vd
  | .decHdr => .od
  | .decFull => .old

/-- The length of the fixed part of a packet of the format, its opcode byte included (30_encoding.md R92). -/
def fixedBytes : Format → Nat
  | .n => 1
  | .d => 5
  | .vd => 6
  | .od => 9
  | .old => 11

end Sys2Proof.Machine
end

