-- ==== Sys2Proof/WellFormed.lean ====
section
/-!
DEFINITION. Which terms of `Instr` a command packet can express (30_encoding.md R92): operand sequences of at most
2^32 - 1 bytes, offsets of 32 bits, and, for `(reserved)`, an opcode that is not assigned (R93).
-/

namespace Sys2Proof

/-- One more than the largest value of a 32-bit packet field (30_encoding.md R92). -/
def packetFieldBound : Nat := 4294967296

/-- `dlen` has 32 bits (30_encoding.md R92). -/
def dataFits (bytes : List Byte) : Bool := decide (bytes.length < packetFieldBound)

/-- A packet's `offset` has 32 bits (30_encoding.md R92). -/
def offsetFits (offset : Nat) : Bool := decide (offset < packetFieldBound)

/-- The check, constructor by constructor. -/
def Instr.wellFormed : Instr → Bool
  | .csBlock bytes => dataFits bytes
  | .csInit => true
  | .csUpdate bytes => dataFits bytes
  | .csRead => true
  | .encode _ payload => dataFits payload
  | .decHdr offset bytes => offsetFits offset && dataFits bytes
  | .decFull offset _ bytes => offsetFits offset && dataFits bytes
  | .decode bytes => dataFits bytes
  | .feed chunk => dataFits chunk
  | .reset => true
  | .status => true
  | .reserved opcode _ => (Machine.operationOf opcode).isNone
  | .frameHeader _ _ => true
  | .frameTrailer _ => true

/-- An instruction that has an encoding. -/
abbrev Instr.WellFormed (i : Instr) : Prop := i.wellFormed = true

end Sys2Proof
end

