-- ==== Sys2Proof/Decode.lean ====
section
/-!
DEFINITION. The decoder of the host's inputs, total on any bytes, and the encoder (30_encoding.md R92, R93, R96). A
packet with a reserved opcode decodes to `Instr.reserved`; every other malformed packet, and a wire segment that no
`FEED` packet can carry, is rejected by name.
-/

namespace Sys2Proof

open Machine (be16 be32 wordOf dwordOf byteAt operationOf opcodeOf formatOf fixedBytes headerBytes trailerBytes)

/-- Format N: nothing follows the opcode (30_encoding.md R92, R96). -/
def readNothing (rest : List Byte) (i : Instr) : Except DecodeError Instr :=
  match rest with
  | [] => .ok i
  | _ :: _ => .error .trailingBytes

/-- `dlen` and the data: `dlen` must equal the number of bytes that follow it (30_encoding.md R92, R96). -/
def readData (rest : List Byte) (mk : List Byte → Instr) : Except DecodeError Instr :=
  match rest with
  | b3 :: b2 :: b1 :: b0 :: data =>
    if (dwordOf b3 b2 b1 b0).toNat = data.length then .ok (mk data) else .error .dlenMismatch
  | _ => .error .tooShort

/-- The 8-bit `version` field of format VD (30_encoding.md R92). -/
def readVersion (rest : List Byte) (k : Byte → List Byte → Except DecodeError Instr) : Except DecodeError Instr :=
  match rest with
  | v :: more => k v more
  | _ => .error .tooShort

/-- The 32-bit `offset` field of formats OD and OLD (30_encoding.md R92). -/
def readOffset (rest : List Byte) (k : Nat → List Byte → Except DecodeError Instr) : Except DecodeError Instr :=
  match rest with
  | b3 :: b2 :: b1 :: b0 :: more => k (dwordOf b3 b2 b1 b0).toNat more
  | _ => .error .tooShort

/-- The 16-bit `length` field of format OLD (30_encoding.md R92). -/
def readLength (rest : List Byte) (k : Word → List Byte → Except DecodeError Instr) : Except DecodeError Instr :=
  match rest with
  | hi :: lo :: more => k (wordOf hi lo) more
  | _ => .error .tooShort

/-- The operands of an operation, read from the bytes after its opcode (30_encoding.md R92, R93). -/
def decodeOperands (o : Machine.Operation) (rest : List Byte) : Except DecodeError Instr :=
  match o with
  | .csBlock => readData rest .csBlock
  | .csInit => readNothing rest .csInit
  | .csUpdate => readData rest .csUpdate
  | .csRead => readNothing rest .csRead
  | .encode => readVersion rest fun v more => readData more (.encode v)
  | .decHdr => readOffset rest fun off more => readData more (.decHdr off)
  | .decFull => readOffset rest fun off more => readLength more fun len more' => readData more' (.decFull off len)
  | .decode => readData rest .decode
  | .feed => readData rest .feed
  | .reset => readNothing rest .reset
  | .status => readNothing rest .status

/-- A command packet: byte 0 is the opcode (30_encoding.md R92); reserved opcodes are R96's. -/
def decodePacket : List Byte → Except DecodeError Instr
  | [] => .error .emptyPacket
  | opcode :: rest =>
    match operationOf opcode with
    | none => .ok (.reserved opcode rest)
    | some o => decodeOperands o rest

/-- A segment of wire bytes: the four bytes of a frame header, the three bytes of a frame trailer (30_encoding.md R80),
or any other bytes, which are an ordinary chunk. DESIGN CHOICE (log 6), safe: each of the three runs as a `FEED`. -/
def decodeWire (segment : List Byte) : Instr :=
  match segment with
  | [m, v, hi, lo] => if m = Config.startMarker then .frameHeader v (wordOf hi lo) else .feed segment
  | [hi, lo, e] => if e = Config.endMarker then .frameTrailer (wordOf hi lo) else .feed segment
  | _ => .feed segment

/-- The decoder. A wire segment is held to the largest chunk of one `FEED`, 2^32 - 1 bytes (00_scope.md R11). -/
def decode : HostInput → Except DecodeError Instr
  | .command packet => decodePacket packet
  | .wire segment => if dataFits segment then .ok (decodeWire segment) else .error .segmentTooLong

/-! ## The encoder -/

/-- `dlen` and the data of a packet (30_encoding.md R92). -/
def dataField (bytes : List Byte) : List Byte := be32 (BitVec.ofNat 32 bytes.length) ++ bytes

/-- The `offset` field of a packet (30_encoding.md R92). -/
def offsetField (offset : Nat) : List Byte := be32 (BitVec.ofNat 32 offset)

/-- A packet of the operation: its opcode and the rest (30_encoding.md R92, R93). -/
def packetOf (o : Machine.Operation) (rest : List Byte) : HostInput := .command (opcodeOf o :: rest)

/-- The input that stands for an instruction: its command packet (30_encoding.md R92, R93), or the bytes of the frame
part (R80). -/
def encode : Instr → HostInput
  | .csBlock bytes => packetOf .csBlock (dataField bytes)
  | .csInit => packetOf .csInit []
  | .csUpdate bytes => packetOf .csUpdate (dataField bytes)
  | .csRead => packetOf .csRead []
  | .encode version payload => packetOf .encode (version :: dataField payload)
  | .decHdr offset bytes => packetOf .decHdr (offsetField offset ++ dataField bytes)
  | .decFull offset length bytes => packetOf .decFull (offsetField offset ++ be16 length ++ dataField bytes)
  | .decode bytes => packetOf .decode (dataField bytes)
  | .feed chunk => packetOf .feed (dataField chunk)
  | .reset => packetOf .reset []
  | .status => packetOf .status []
  | .reserved opcode rest => .command (opcode :: rest)
  | .frameHeader version length => .wire (headerBytes version length)
  | .frameTrailer checksum => .wire (trailerBytes checksum)

/-! ## Words of the opcode table -/

/-- The `n` low bytes of `w`, the least significant first: bit 0 of the table is the least significant bit of the first
byte of a packet. -/
def lowBytes : Nat → Nat → List Byte
  | 0, _ => []
  | n + 1, w => BitVec.ofNat 8 w :: lowBytes n (w / 256)

/-- A packet made as long as the fixed part of its format by bytes of zeros (30_encoding.md R92). -/
def padPacket : List Byte → List Byte
  | [] => []
  | opcode :: rest =>
    match operationOf opcode with
    | none => opcode :: rest
    | some o => opcode :: rest ++ List.replicate (fixedBytes (formatOf o) - (rest.length + 1)) 0#8

/-- The input a word of spec/opcode_table.json stands for. A command row is 8 bits wide, the opcode byte. The two frame
rows are one number of 32 and of 24 bits, the byte sent first being the most significant (30_encoding.md R80; log 15). -/
def tableInput (nbits w : Nat) : HostInput :=
  if nbits = 32 ∧ BitVec.ofNat 8 (w / 16777216) = Config.startMarker then .wire (lowBytes 4 w).reverse
  else if nbits = 24 ∧ BitVec.ofNat 8 w = Config.endMarker then .wire (lowBytes 3 w).reverse
  else .command (padPacket (lowBytes (nbits / 8) w))

/-- The instruction the decoder reads from a word of spec/opcode_table.json. -/
def decodeTableWord (nbits w : Nat) : Option Instr := (decode (tableInput nbits w)).toOption

end Sys2Proof
end

