-- ==== Sys2Proof/Machine/Packets.lean ====
section
/-!
DEFINITION. Response packets (30_encoding.md R94, R100): the bytes in which the host sees the records of `outbox`.
-/

namespace Sys2Proof.Machine

/-- A natural number in a 32-bit field of a response (30_encoding.md R94; log 10). -/
def countField (n : Nat) : List Byte := be32 (BitVec.ofNat 32 n)

/-- One record of a `FEED` response: `plen` and the payload bytes (30_encoding.md R94). -/
def payloadRecord (p : List Byte) : List Byte := be16 (BitVec.ofNat 16 p.length) ++ p

/-- The bytes after the status code `OK` (30_encoding.md R94, R100). -/
def Reply.body : Reply → List Byte
  | .nothing => []
  | .value v => be16 v
  | .encoded bytes => countField bytes.length ++ bytes
  | .header h => h.version :: be16 h.length
  | .frame f => f.version :: be16 f.length ++ f.payload ++ be16 f.checksum
  | .payloads ps => countField ps.length ++ ps.flatMap payloadRecord
  | .status v =>
    phaseCode v.phase :: faultCode v.fault :: be16 v.capLen ++ countField v.bufferLen ++ be16 v.crcAcc

/-- The bytes after a status code other than `OK`: `InvalidMarker` carries its offset (30_encoding.md R94). -/
def Failure.body : Failure → List Byte
  | .invalidMarker offset => countField offset
  | .incomplete | .invalidChecksum | .invalidEndMarker | .payloadTooLarge | .bufferOverflow | .illegalCommand => []

/-- The response packet (30_encoding.md R94). -/
def Response.packet : Response → List Byte
  | .ok r => okCode :: r.body
  | .failed f => failureCode f :: f.body

/-- The response packets the instance has returned, oldest first (30_encoding.md R91). -/
def State.responsePackets (s : State) : List (List Byte) := s.outbox.map Response.packet

end Sys2Proof.Machine
end

