-- ==== Sys2Proof/Machine/Fetch.lean ====
section
/-!
DEFINITION. The command channel's side of a step: taking the oldest input (30_encoding.md R91), and placing an input
where the next step takes it.
-/

namespace Sys2Proof.Machine

/-- The oldest input that waits, and the state with it taken out; `none` when none waits (log 4). -/
def State.takeInput (s : State) : Option (HostInput × State) :=
  match s.inbox with
  | [] => none
  | input :: more => some (input, { s with inbox := more })

/-- The state with this input before all that wait, so that the next step takes it. -/
def State.presentInput (s : State) (input : HostInput) : State := { s with inbox := input :: s.inbox }

end Sys2Proof.Machine
end

