-- ==== Sys2Proof/Machine/Step.lean ====
section
/-!
DEFINITION. One step of the machine: one command of the host is decoded and executed (30_encoding.md R91).
-/

namespace Sys2Proof.Machine

/-- One transaction (00_scope.md R8). The oldest input is taken and decoded; an operation is executed, and a malformed
packet is answered with `IllegalCommand` (30_encoding.md R96). With no input the hardware does nothing
(60_exceptions.md R248; log 5). -/
def step (s : State) : Host.Outcome State Fault Refusal :=
  match s.takeInput with
  | none => .next s
  | some (input, t) =>
    match Sys2Proof.decode input with
    | .ok i => exec i t
    | .error _ => .next t.answerIllegal

/-- The state with the instruction of a word of spec/opcode_table.json as its next input (log 4). -/
def State.withFetchWord (s : State) (nbits w : Nat) : State := s.presentInput (tableInput nbits w)

end Sys2Proof.Machine
end

