-- ==== Sys2Proof/Machine/Pseudo.lean ====
section
/-!
DEFINITION. Sequences of operations (20_memory.md R63) and the pseudo-operations, each an abbreviation for a sequence of
real operations (30_encoding.md R99).
-/

namespace Sys2Proof.Machine

/-- The operations executed one after another in the order issued (20_memory.md R63). -/
def runOps : List Instr → State → Host.Outcome State Fault Refusal
  | [], s => .next s
  | i :: more, s =>
    match exec i s with
    | .next t => runOps more t
    | .fault r => .fault r
    | .refused r => .refused r

/-- `CONNECT` = `RESET` (30_encoding.md R99). -/
def connect : List Instr := [.reset]

/-- `CS.STREAM b1, ..., bn` = `CS.INIT; CS.UPDATE b1; ...; CS.UPDATE bn; CS.READ` (30_encoding.md R99). -/
def csStream (parts : List (List Byte)) : List Instr := .csInit :: parts.map .csUpdate ++ [.csRead]

/-- `FEEDB [x0 x1 ... xk]` = `FEED [x0]; FEED [x1]; ...; FEED [xk]` (30_encoding.md R99). -/
def feedBytes (chunk : List Byte) : List Instr := chunk.map fun b => .feed [b]

end Sys2Proof.Machine
end

