-- ==== Sys2Proof/Machine/Assembler.lean ====
section
/-!
DEFINITION. The textual notation of operations (30_encoding.md R98) and of the pseudo-operations (R99), read one line
at a time (DESIGN CHOICE, log 18). The hardware never sees it; nothing else in the model depends on it.
-/

namespace Sys2Proof.Machine

/-- What reading a piece of a line gives: the value and the characters left. -/
abbrev Reading (α : Type) := Option (α × List Char)

/-- The characters without the spaces they begin with. -/
def skipSpaces (text : List Char) : List Char := text.dropWhile (· == ' ')

/-- The value of a hexadecimal digit (00_scope.md R13). -/
def hexDigit (c : Char) : Option Nat :=
  let n := c.toNat
  if 48 ≤ n ∧ n ≤ 57 then some (n - 48)
  else if 65 ≤ n ∧ n ≤ 70 then some (n - 55)
  else if 97 ≤ n ∧ n ≤ 102 then some (n - 87)
  else none

/-- The value of a decimal digit. -/
def decDigit (c : Char) : Option Nat :=
  if 48 ≤ c.toNat ∧ c.toNat ≤ 57 then some (c.toNat - 48) else none

/-- Digits of the base read onto a value, as many as there are. -/
def readDigits (digit : Char → Option Nat) (base : Nat) : Nat → List Char → Nat × List Char
  | acc, [] => (acc, [])
  | acc, c :: more =>
    match digit c with
    | some d => readDigits digit base (acc * base + d) more
    | none => (acc, c :: more)

/-- A number of at least one digit, below the bound. -/
def readNumber (digit : Char → Option Nat) (base bound : Nat) (text : List Char) : Reading Nat :=
  match text with
  | [] => none
  | c :: _ =>
    if (digit c).isSome then
      let r := readDigits digit base 0 text
      if r.1 < bound then some r else none
    else none

/-- A version or a length: a hexadecimal number such as `0x01` (30_encoding.md R98). -/
def readHex (bound : Nat) : List Char → Reading Nat
  | '0' :: 'x' :: more => readNumber hexDigit 16 bound more
  | _ => none

/-- The bytes of a bracketed sequence after its `[`: pairs of hexadecimal digits and spaces, up to `]`
(30_encoding.md R98). -/
def readHexBytes : List Char → Reading (List Byte)
  | [] => none
  | ']' :: more => some ([], more)
  | ' ' :: more => readHexBytes more
  | _ :: [] => none
  | a :: b :: more =>
    match hexDigit a, hexDigit b, readHexBytes more with
    | some x, some y, some (bytes, left) => some (BitVec.ofNat 8 (x * 16 + y) :: bytes, left)
    | _, _, _ => none

/-- The bytes of a quoted ASCII string after its opening quote (30_encoding.md R98). -/
def readQuoted : List Char → Reading (List Byte)
  | [] => none
  | c :: more =>
    if c.toNat = 34 then some ([], more)
    else if c.toNat < 128 then (readQuoted more).map fun r => (BitVec.ofNat 8 c.toNat :: r.1, r.2)
    else none

/-- A byte sequence operand (30_encoding.md R98). -/
def readBytes : List Char → Reading (List Byte)
  | [] => none
  | c :: more => if c = '[' then readHexBytes more else if c.toNat = 34 then readQuoted more else none

/-- A comma between operands, with the spaces around it. -/
def readComma (text : List Char) : Option (List Char) :=
  match skipSpaces text with
  | ',' :: more => some (skipSpaces more)
  | _ => none

/-- What may follow the last operand: nothing, a comment after `;`, or an expected response after `->`
(30_encoding.md R98). -/
def endsLine (text : List Char) : Bool :=
  match skipSpaces text with
  | [] => true
  | ';' :: _ => true
  | '-' :: '>' :: _ => true
  | _ => false

/-- The byte sequences of `CS.STREAM`, separated by commas; the first argument bounds their number. -/
def readParts : Nat → List Char → Reading (List (List Byte))
  | 0, _ => none
  | n + 1, text =>
    match readBytes text with
    | none => none
    | some (bytes, left) =>
      match readComma left with
      | none => some ([bytes], left)
      | some next => (readParts n next).map fun r => (bytes :: r.1, r.2)

/-- One bytes operand and the end of the line. -/
def operandBytes (mk : List Byte → List Instr) (text : List Char) : Option (List Instr) :=
  match readBytes text with
  | some (bytes, left) => if endsLine left then some (mk bytes) else none
  | none => none

/-- No operand (30_encoding.md R98). -/
def operandNone (ops : List Instr) (text : List Char) : Option (List Instr) :=
  if endsLine text then some ops else none

/-- A number, a comma, and what follows. -/
def operandThen (read : List Char → Reading Nat) (k : Nat → List Char → Option (List Instr)) (text : List Char) :
    Option (List Instr) :=
  match read text with
  | some (n, left) =>
    match readComma left with
    | some more => k n more
    | none => none
  | none => none

/-- The operations of a mnemonic and its operands, in the operand order of 30_encoding.md R98; the pseudo-operations
are R99's. -/
def assembleOperands (mnemonic : String) (text : List Char) : Option (List Instr) :=
  if mnemonic = "CS.BLOCK" then operandBytes (fun b => [.csBlock b]) text
  else if mnemonic = "CS.INIT" then operandNone [.csInit] text
  else if mnemonic = "CS.UPDATE" then operandBytes (fun b => [.csUpdate b]) text
  else if mnemonic = "CS.READ" then operandNone [.csRead] text
  else if mnemonic = "ENCODE" then
    operandThen (readHex 256) (fun v => operandBytes fun b => [.encode (BitVec.ofNat 8 v) b]) text
  else if mnemonic = "DEC.HDR" then
    operandThen (readNumber decDigit 10 packetFieldBound) (fun o => operandBytes fun b => [.decHdr o b]) text
  else if mnemonic = "DEC.FULL" then
    operandThen (readNumber decDigit 10 packetFieldBound)
      (fun o => operandThen (readHex 65536) fun l => operandBytes fun b => [.decFull o (BitVec.ofNat 16 l) b]) text
  else if mnemonic = "DECODE" then operandBytes (fun b => [.decode b]) text
  else if mnemonic = "FEED" then operandBytes (fun b => [.feed b]) text
  else if mnemonic = "RESET" then operandNone [.reset] text
  else if mnemonic = "STATUS" then operandNone [.status] text
  else if mnemonic = "CONNECT" then operandNone connect text
  else if mnemonic = "FEEDB" then operandBytes feedBytes text
  else if mnemonic = "CS.STREAM" then
    if endsLine text then some (csStream [])
    else
      match readParts text.length text with
      | some (parts, left) => if endsLine left then some (csStream parts) else none
      | none => none
  else none

/-- The operations of one line; none for a line that holds only a comment, `none` for a line that is not of the
notation (30_encoding.md R98, R99). -/
def assembleLine (line : List Char) : Option (List Instr) :=
  let text := skipSpaces line
  match text with
  | [] => some []
  | ';' :: _ => some []
  | _ =>
    let mnemonic := text.takeWhile fun c => c ≠ ' ' ∧ c ≠ ';'
    assembleOperands (String.ofList mnemonic) (skipSpaces (text.drop mnemonic.length))

end Sys2Proof.Machine
end

