-- ==== Sys2Proof/Machine/System.lean ====
section
/-!
DEFINITION. A system of `N_INST` instances: their product, with any interleaving of their operations
(60_exceptions.md R258; 20_memory.md R66; log 9).
-/

namespace Sys2Proof.Machine

/-- A system of instances, which share nothing (60_exceptions.md R258). It holds one by its form, since `N_INST >= 1`
(00_scope.md R11). -/
structure System where
  first : State
  others : List State
  deriving DecidableEq, Repr

/-- All instances of a system. -/
def System.instances (sys : System) : List State := sys.first :: sys.others

/-- `N_INST`, the number of instances (00_scope.md R11). -/
def System.nInst (sys : System) : Nat := sys.instances.length

/-- The system with the state of instance `k` replaced; unchanged if there is no instance `k`. -/
def System.setInstance (sys : System) (k : Nat) (t : State) : System :=
  match k with
  | 0 => { sys with first := t }
  | j + 1 => { sys with others := sys.others.set j t }

/-- A system of instances just created, one for each pair of static parameters (70_reset_and_hazards.md R283); there is
at least one (00_scope.md R11). -/
def System.create (parameters : Nat × Bool) (more : List (Nat × Bool)) : System where
  first := State.create parameters.1 parameters.2
  others := more.map fun p => State.create p.1 p.2

/-- Instance `k` takes a step and no other instance changes (20_memory.md R66). An index that names no instance changes
nothing. -/
def System.stepAt (sys : System) (k : Nat) : Host.Outcome System Fault Refusal :=
  match sys.instances[k]? with
  | none => .next sys
  | some s =>
    match step s with
    | .next t => .next (sys.setInstance k t)
    | .fault r => .fault r
    | .refused r => .refused r

/-- A whole interleaving: the instances step in the order of the schedule (20_memory.md R66). -/
def System.runSchedule : List Nat → System → Host.Outcome System Fault Refusal
  | [], sys => .next sys
  | k :: more, sys =>
    match sys.stepAt k with
    | .next sys' => System.runSchedule more sys'
    | .fault r => .fault r
    | .refused r => .refused r

end Sys2Proof.Machine
end

