-- ==== Sys2Proof/Safety.lean ====
section
/-!
DEFINITION. The terms in which statements about the machine are made: the document's own listing of the checksum, a
valid frame, a malformed packet, the transition table of the drain loop as a relation, the parse of a whole stream, and
the invariant that holds between operations. None of them is used by `step`.
-/

namespace Sys2Proof.Machine

/-! ## The checksum as the document lists it -/

/-- The body of `repeat 8 times` in the document's listing, on unbounded naturals (40_checksum.md R122, R125). -/
def listingBit (crc : Nat) : Nat := if crc.testBit 15 then (crc <<< 1) ^^^ 0x1021 else crc <<< 1

/-- The body of `for each byte b in bytes`; the truncation stands after the eight shifts (40_checksum.md R122). -/
def listingByte (crc : Nat) (b : Byte) : Nat :=
  (Nat.repeat listingBit 8 (crc ^^^ (b.toNat <<< 8))) &&& 0xFFFF

/-- The document's listing of `checksum(bytes)` (40_checksum.md R122). -/
def checksumListing (bytes : List Byte) : Nat := bytes.foldl listingByte 0xFFFF

/-- The bytes the `CS.UPDATE`s among the operations deliver, in order (40_checksum.md R134). -/
def updateBytes : List Instr → List Byte
  | [] => []
  | .csUpdate bytes :: more => bytes ++ updateBytes more
  | _ :: more => updateBytes more

/-! ## Frames -/

/-- The declared length of the frame at offset `o` (30_encoding.md R82). -/
def lengthAt (s : List Byte) (o : Nat) : Nat := (u16be s (o + 2)).toNat

/-- The payload of the frame at offset `o` (30_encoding.md R82). -/
def payloadAt (s : List Byte) (o : Nat) : List Byte := slice s (o + 4) (o + 4 + lengthAt s o)

/-- `s` holds a valid frame at offset `o` (30_encoding.md R85). -/
def ValidFrameAt (s : List Byte) (o : Nat) : Prop :=
  4 ≤ avail s o ∧ byteAt s o = 0xAA#8 ∧ 7 + lengthAt s o ≤ avail s o ∧
    u16be s (o + 4 + lengthAt s o) = checksum (slice s (o + 1) (o + 4 + lengthAt s o)) ∧
    byteAt s (o + 6 + lengthAt s o) = 0x55#8

/-- The payloads are those of valid frames of the stream, at strictly rising offsets from `start` on, with spans that do
not overlap (42_stream_decoder.md R212). -/
def EmittedFrom (stream : List Byte) : Nat → List (List Byte) → Prop
  | _, [] => True
  | start, p :: more =>
    ∃ o, start ≤ o ∧ ValidFrameAt stream o ∧ p = payloadAt stream o ∧
      EmittedFrom stream (o + 7 + lengthAt stream o) more

/-- The payloads in a list of responses, in emission order. -/
def emittedPayloads : List Response → List (List Byte)
  | [] => []
  | .ok (.payloads ps) :: more => ps ++ emittedPayloads more
  | _ :: more => emittedPayloads more

/-- The 8 bytes the document calls the header bytes of the `Hello` frame, its checksummed span (30_encoding.md R88). -/
def helloSpan : List Byte := [0x01#8, 0x00#8, 0x05#8, 0x48#8, 0x65#8, 0x6C#8, 0x6C#8, 0x6F#8]

/-- The `Hello` frame (30_encoding.md R88). -/
def helloFrame : List Byte := 0xAA#8 :: helloSpan ++ [0xFE#8, 0x3A#8, 0x55#8]

/-! ## Kinds of operation -/

/-- The bytes an instruction feeds to the Stream Decoder, if it feeds any (42_stream_decoder.md R191; log 6). -/
def fedBytes : Instr → Option (List Byte)
  | .feed chunk => some chunk
  | .frameHeader version length => some (0xAA#8 :: version :: be16 length)
  | .frameTrailer checksum => some (be16 checksum ++ [0x55#8])
  | .csBlock _ | .csInit | .csUpdate _ | .csRead | .encode _ _ | .decHdr _ _ | .decFull _ _ _ | .decode _ | .reset
  | .status | .reserved _ _ => none

/-- The operations that write no state: the pure functions of the engine and the codec, the two read-outs, and
`IllegalCommand` (10_state.md R20; 41_frame_codec.md R150; 60_exceptions.md R252). -/
def writesNoState : Instr → Bool
  | .csBlock _ | .csRead | .encode _ _ | .decHdr _ _ | .decFull _ _ _ | .decode _ | .status | .reserved _ _ => true
  | .csInit | .csUpdate _ | .feed _ | .reset | .frameHeader _ _ | .frameTrailer _ => false

/-- The operations that read or write `crc_acc` (10_state.md R20, R21). -/
def usesAccumulator : Instr → Bool
  | .csInit | .csUpdate _ | .csRead | .status => true
  | .csBlock _ | .encode _ _ | .decHdr _ _ | .decFull _ _ _ | .decode _ | .feed _ | .reset | .reserved _ _
  | .frameHeader _ _ | .frameTrailer _ => false

/-! ## Packets -/

/-- The value of the `dlen` field of a packet whose fixed part has `fixed` bytes: its last four (30_encoding.md R92). -/
def dlenOf (packet : List Byte) (fixed : Nat) : Nat :=
  (dwordOf (byteAt packet (fixed - 4)) (byteAt packet (fixed - 3)) (byteAt packet (fixed - 2))
    (byteAt packet (fixed - 1))).toNat

/-- A malformed command packet (30_encoding.md R96). -/
def Malformed (packet : List Byte) : Prop :=
  packet = [] ∨
  operationOf (byteAt packet 0) = none ∨
  ∃ o, operationOf (byteAt packet 0) = some o ∧
    (packet.length < fixedBytes (formatOf o) ∨
     (formatOf o = .n ∧ 1 < packet.length) ∨
     (formatOf o ≠ .n ∧ dlenOf packet (fixedBytes (formatOf o)) ≠ packet.length - fixedBytes (formatOf o)))

/-! ## The drain loop as the transition table -/

/-- The state after the failure arm of step 3 or 4: one event if `OBS_EVENTS`, one byte dropped, `cap_len` 0,
`SCANNING` (42_stream_decoder.md R218). -/
def afterRejection (s : State) (code : Byte) : State :=
  { s with buffer := s.buffer.drop 1, capLen := 0#16, phase := .scanning,
           events := if s.obsEvents then s.events ++ [code] else s.events }

/-- `Drains n s t ps`: from `s` the drain loop ends in `t` after `n` passes and emits `ps`. One constructor per row of
the transition table (42_stream_decoder.md R218); the last pass of a run is one that stops. -/
inductive Drains : Nat → State → State → List (List Byte) → Prop where
  /-- `SCANNING`, no `0xAA` in the buffer: `DiscardAll()`, stop. -/
  | noMarker {s : State} : s.phase = .scanning → 0xAA#8 ∉ s.buffer → Drains 1 s { s with buffer := [] } []
  /-- `SCANNING`, the first `0xAA` after some noise: the noise is dropped. -/
  | marker {n : Nat} {s t : State} {ps : List (List Byte)} (noise more : List Byte) :
      s.phase = .scanning → s.buffer = noise ++ 0xAA#8 :: more → 0xAA#8 ∉ noise →
      Drains n { s with buffer := 0xAA#8 :: more, phase := .headerWait } t ps → Drains (n + 1) s t ps
  /-- `HEADER_WAIT`, fewer than 4 bytes: stop. -/
  | shortHeader {s : State} : s.phase = .headerWait → s.buffer.length < 4 → Drains 1 s s []
  /-- `HEADER_WAIT`, 4 bytes, the first not `0xAA` (in no reachable state; log 17). -/
  | badMarker {n : Nat} {s t : State} {ps : List (List Byte)} :
      s.phase = .headerWait → 4 ≤ s.buffer.length → byteAt s.buffer 0 ≠ 0xAA#8 →
      Drains n (afterRejection s 0x02#8) t ps → Drains (n + 1) s t ps
  /-- `HEADER_WAIT`, 4 bytes, the first `0xAA`: the length is captured. -/
  | header {n : Nat} {s t : State} {ps : List (List Byte)} :
      s.phase = .headerWait → 4 ≤ s.buffer.length → byteAt s.buffer 0 = 0xAA#8 →
      Drains n { s with capLen := u16be s.buffer 2, phase := .bodyWait } t ps → Drains (n + 1) s t ps
  /-- `BODY_WAIT`, fewer than `7 + cap_len` bytes: stop. -/
  | shortBody {s : State} : s.phase = .bodyWait → s.buffer.length < 7 + s.capLen.toNat → Drains 1 s s []
  /-- `BODY_WAIT`, enough bytes, checksum mismatch. -/
  | badChecksum {n : Nat} {s t : State} {ps : List (List Byte)} :
      s.phase = .bodyWait → 7 + s.capLen.toNat ≤ s.buffer.length →
      checksum (slice s.buffer 1 (4 + s.capLen.toNat)) ≠ u16be s.buffer (4 + s.capLen.toNat) →
      Drains n (afterRejection s 0x03#8) t ps → Drains (n + 1) s t ps
  /-- `BODY_WAIT`, enough bytes, checksum equal, wrong end marker. -/
  | badEndMarker {n : Nat} {s t : State} {ps : List (List Byte)} :
      s.phase = .bodyWait → 7 + s.capLen.toNat ≤ s.buffer.length →
      checksum (slice s.buffer 1 (4 + s.capLen.toNat)) = u16be s.buffer (4 + s.capLen.toNat) →
      byteAt s.buffer (6 + s.capLen.toNat) ≠ 0x55#8 →
      Drains n (afterRejection s 0x04#8) t ps → Drains (n + 1) s t ps
  /-- `BODY_WAIT`, a valid frame: its payload is emitted and its span dropped. -/
  | emit {n : Nat} {s t : State} {ps : List (List Byte)} :
      s.phase = .bodyWait → 7 + s.capLen.toNat ≤ s.buffer.length →
      checksum (slice s.buffer 1 (4 + s.capLen.toNat)) = u16be s.buffer (4 + s.capLen.toNat) →
      byteAt s.buffer (6 + s.capLen.toNat) = 0x55#8 →
      Drains n { s with buffer := s.buffer.drop (7 + s.capLen.toNat), capLen := 0#16, phase := .scanning } t ps →
      Drains (n + 1) s t (slice s.buffer 4 (4 + s.capLen.toNat) :: ps)

/-! ## The parse of a whole stream -/

/-- `parse(s)` with a bound on the number of candidates it judges (42_stream_decoder.md R209). -/
def parseWithin : Nat → List Byte → List (List Byte) × List Byte
  | 0, s => ([], s)
  | n + 1, s =>
    match findMarker s 0 with
    | none => ([], [])
    | some i =>
      let t := s.drop i
      if t.length < 4 then ([], t)
      else if t.length < 7 + lengthAt t 0 then ([], t)
      else
        match decodeFull t 0 (u16be t 2) with
        | .ok f =>
          let r := parseWithin n (t.drop (7 + lengthAt t 0))
          (f.payload :: r.1, r.2)
        | .error _ => parseWithin n (t.drop 1)

/-- `parse(s)`: the payloads emitted for the stream and the buffer left (42_stream_decoder.md R209). Each judged
candidate takes at least one byte, so `|s|` candidates are enough. -/
def parse (s : List Byte) : List (List Byte) × List Byte := parseWithin (s.length + 1) s

/-! ## The invariant between operations -/

/-- What `state` says of the buffer and of `cap_len` (10_state.md R37, R38, R39, R25). -/
def PhaseInv (s : State) : Prop :=
  (s.phase = .scanning → s.buffer = [] ∧ s.capLen = 0#16) ∧
  (s.phase = .headerWait →
    1 ≤ s.buffer.length ∧ s.buffer.length ≤ 3 ∧ byteAt s.buffer 0 = 0xAA#8 ∧ s.capLen = 0#16) ∧
  (s.phase = .bodyWait →
    4 ≤ s.buffer.length ∧ s.buffer.length < 7 + s.capLen.toNat ∧ byteAt s.buffer 0 = 0xAA#8 ∧
      s.capLen = u16be s.buffer 2)

/-- The event stream: none when `OBS_EVENTS` is false, and no event but those of the two reachable failures
(30_encoding.md R97; 42_stream_decoder.md R198). -/
def EventsInv (s : State) : Prop :=
  (s.obsEvents = false → s.events = []) ∧ ∀ e ∈ s.events, e = 0x03#8 ∨ e = 0x04#8

/-- What holds after hardware reset and after every completed operation (10_state.md R37 to R40; 20_memory.md R69). -/
def Inv (s : State) : Prop := PhaseInv s ∧ Memory.wf s.buffer s.maxBuf = true ∧ EventsInv s

end Sys2Proof.Machine
end

