-- ==== Sys2Proof/Certificates/Slice0/Obligations.lean ====
section
/-!
DEFINITION. The statements for the provers. Each docstring names the rule of spec/ the statement formalises, or says
that it is the model's choice. "Inference" marks a rule that spec/ itself marks as derived or as general knowledge: a
statement of such a rule has basis 'derived'. The statement of a rule that has no hypothesis on the state holds in
every state, reached or not.
-/

open Sys2Proof Sys2Proof.Machine

/-! ## Checksum Engine -/

/-- 40_checksum.md R122: the engine's fold of 16-bit byte steps gives the value of the document's listing, which works
on unbounded naturals and truncates once a byte (the comparison is R125's). -/
def Obligations.ChecksumIsTheDocumentsListing : Prop :=
  ∀ bytes : List Byte, (checksum bytes).toNat = checksumListing bytes

/-- Inference of 40_checksum.md R129. -/
def Obligations.ChecksumOfAppendContinuesTheFold : Prop :=
  ∀ (c : Word) (s t : List Byte),
    crcFold c (s ++ t) = crcFold (crcFold c s) t ∧ checksum (s ++ t) = crcFold (checksum s) t

/-- Inference of 40_checksum.md R138, which the spec takes from general knowledge; here it is a claim about R122. -/
def Obligations.ResidueIsZeroExactlyForTheOwnChecksum : Prop :=
  (∀ s : List Byte, checksum (s ++ be16 (checksum s)) = 0#16) ∧
  ∀ c x : Word, crcFold c (be16 x) = 0#16 ↔ x = c

/-- 40_checksum.md R130: the packet, the result, the corner cases, the example, and that no state but the response is
written. -/
def Obligations.CsBlockAnswersTheChecksum : Prop :=
  (∀ (bytes : List Byte) (s : State),
    (bytes.length < 4294967296 →
      decode (.command (0x01#8 :: be32 (BitVec.ofNat 32 bytes.length) ++ bytes)) = .ok (.csBlock bytes)) ∧
    exec (.csBlock bytes) s =
      .next { s with outbox := s.outbox ++ [.ok (.value (BitVec.ofNat 16 (checksumListing bytes)))] }) ∧
  checksumListing [] = 0xFFFF ∧ checksumListing [0xFF#8, 0xFF#8] = 0x0000 ∧ checksumListing helloSpan = 0xFE3A ∧
  (Response.ok (.value 0xFE3A#16)).packet = [0x00#8, 0xFE#8, 0x3A#8]

/-- 40_checksum.md R131. -/
def Obligations.CsInitSetsTheAccumulator : Prop :=
  decode (.command [0x02#8]) = .ok .csInit ∧ (Response.ok .nothing).packet = [0x00#8] ∧
  ∀ s : State,
    exec .csInit s = .next { s with crcAcc := 0xFFFF#16, outbox := s.outbox ++ [.ok .nothing] }

/-- 40_checksum.md R132. -/
def Obligations.CsUpdateFoldsItsBytes : Prop :=
  (∀ (bytes : List Byte) (s : State),
    (bytes.length < 4294967296 →
      decode (.command (0x03#8 :: be32 (BitVec.ofNat 32 bytes.length) ++ bytes)) = .ok (.csUpdate bytes)) ∧
    exec (.csUpdate bytes) s =
      .next { s with crcAcc := bytes.foldl crcByte s.crcAcc, outbox := s.outbox ++ [.ok .nothing] }) ∧
  [0x01#8, 0x00#8, 0x05#8].foldl crcByte 0xFFFF#16 = 0xAB09#16 ∧
  [0x48#8, 0x65#8, 0x6C#8, 0x6C#8, 0x6F#8].foldl crcByte 0xAB09#16 = 0xFE3A#16

/-- 40_checksum.md R133. -/
def Obligations.CsReadAnswersTheAccumulator : Prop :=
  decode (.command [0x04#8]) = .ok .csRead ∧ (Response.ok (.value 0xFE3A#16)).packet = [0x00#8, 0xFE#8, 0x3A#8] ∧
  ∀ s : State, exec .csRead s = .next { s with outbox := s.outbox ++ [.ok (.value s.crcAcc)] }

/-- Inference of 40_checksum.md R134: after a `CS.INIT`, the `CS.UPDATE`s of any sequence of operations without another
`CS.INIT`, whatever operations stand between them, lead `CS.READ` to the value `CS.BLOCK` gives for all their bytes. -/
def Obligations.StreamedUpdatesEqualTheBlock : Prop :=
  ∀ (ops : List Instr) (s : State), Instr.csInit ∉ ops →
    ∃ t u v, runOps (.csInit :: ops ++ [.csRead]) s = .next t ∧ exec (.csBlock (updateBytes ops)) s = .next u ∧
      t.outbox.getLast? = some (.ok (.value v)) ∧ u.outbox.getLast? = some (.ok (.value v))

/-- The last part of 10_state.md R21: no other operation reads or writes `crc_acc`. With another value in it, every
such operation gives the same next state but for that value, and leaves that value as it was. -/
def Obligations.NoOtherOperationTouchesTheAccumulator : Prop :=
  ∀ (i : Instr) (s : State) (c : Word), usesAccumulator i = false →
    ∃ t, exec i s = .next t ∧ t.crcAcc = s.crcAcc ∧
      exec i { s with crcAcc := c } = .next { t with crcAcc := c }

/-! ## Frame Codec -/

/-- 41_frame_codec.md R151, R152, with the example of R151. -/
def Obligations.EncodeAnswersTheFrame : Prop :=
  (∀ (v : Byte) (p : List Byte) (s : State),
    (p.length < 4294967296 →
      decode (.command (0x10#8 :: v :: be32 (BitVec.ofNat 32 p.length) ++ p)) = .ok (.encode v p)) ∧
    (p.length ≤ 65535 → ∃ body, body = v :: be16 (BitVec.ofNat 16 p.length) ++ p ∧
      exec (.encode v p) s = .next { s with outbox := s.outbox ++
        [.ok (.encoded (0xAA#8 :: body ++ be16 (BitVec.ofNat 16 (checksumListing body)) ++ [0x55#8]))] }) ∧
    (65535 < p.length →
      exec (.encode v p) s = .next { s with outbox := s.outbox ++ [.failed .payloadTooLarge] })) ∧
  (∀ s : State, exec (.encode 0x01#8 (helloSpan.drop 3)) s =
    .next { s with outbox := s.outbox ++ [.ok (.encoded helloFrame)] }) ∧
  (Response.ok (.encoded helloFrame)).packet = [0x00#8, 0x00#8, 0x00#8, 0x00#8, 0x0C#8] ++ helloFrame

/-- Inference of 41_frame_codec.md R153. -/
def Obligations.EncodedFrameIsValid : Prop :=
  ∀ (v : Byte) (p : List Byte) (s : State), p.length ≤ 65535 →
    ∃ f, exec (.encode v p) s = .next { s with outbox := s.outbox ++ [.ok (.encoded f)] } ∧
      f.length = 7 + p.length ∧ f.head? = some 0xAA#8 ∧ f.getLast? = some 0x55#8 ∧
      ValidFrameAt f 0 ∧ payloadAt f 0 = p ∧ byteAt f 1 = v

/-- 41_frame_codec.md R154 to R157, with the example's response of R154. -/
def Obligations.DecHdrParsesTheHeader : Prop :=
  (Response.ok (.header (Header.mk 0x01#8 0x0005#16))).packet = [0x00#8, 0x01#8, 0x00#8, 0x05#8] ∧
  ∀ (offset : Nat) (bytes : List Byte) (s : State),
    (offset < 4294967296 → bytes.length < 4294967296 →
      decode (.command (0x11#8 :: be32 (BitVec.ofNat 32 offset) ++ be32 (BitVec.ofNat 32 bytes.length) ++ bytes)) =
        .ok (.decHdr offset bytes)) ∧
    exec (.decHdr offset bytes) s = .next { s with outbox := s.outbox ++
      [if bytes.length < offset + 4 then .failed .incomplete
       else if byteAt bytes offset ≠ 0xAA#8 then .failed (.invalidMarker offset)
       else .ok (.header (Header.mk (byteAt bytes (offset + 1)) (BitVec.ofNat 16
         ((byteAt bytes (offset + 2)).toNat * 256 + (byteAt bytes (offset + 3)).toNat))))] }

/-- 41_frame_codec.md R159 to R163: availability, checksum, end marker, success, in this order, with the example's
response of R159. -/
def Obligations.DecFullValidatesTheSpan : Prop :=
  (Response.ok (.frame (Frame.mk 0x01#8 5#16 (helloSpan.drop 3) 0xFE3A#16))).packet =
    0x00#8 :: helloSpan ++ [0xFE#8, 0x3A#8] ∧
  ∀ (offset : Nat) (length : Word) (bytes : List Byte) (s : State),
    (offset < 4294967296 → bytes.length < 4294967296 →
      decode (.command (0x12#8 :: be32 (BitVec.ofNat 32 offset) ++ be16 length ++
        be32 (BitVec.ofNat 32 bytes.length) ++ bytes)) = .ok (.decFull offset length bytes)) ∧
    exec (.decFull offset length bytes) s = .next { s with outbox := s.outbox ++
      [if bytes.length < offset + 7 + length.toNat then .failed .incomplete
       else if checksumListing ((bytes.drop (offset + 1)).take (3 + length.toNat)) ≠
          (byteAt bytes (offset + 4 + length.toNat)).toNat * 256 + (byteAt bytes (offset + 5 + length.toNat)).toNat
        then .failed .invalidChecksum
       else if byteAt bytes (offset + 6 + length.toNat) ≠ 0x55#8 then .failed .invalidEndMarker
       else .ok (.frame {
         version := byteAt bytes (offset + 1), length := length,
         payload := (bytes.drop (offset + 4)).take length.toNat,
         checksum := u16be bytes (offset + 4 + length.toNat) })] }

/-- 41_frame_codec.md R164: bytes beyond the span are never an error and never change the result. -/
def Obligations.DecFullIgnoresBytesBeyondTheSpan : Prop :=
  ∀ (offset : Nat) (length : Word) (bytes more : List Byte) (s : State),
    offset + 7 + length.toNat ≤ bytes.length →
    ∃ r, exec (.decFull offset length bytes) s = .next { s with outbox := s.outbox ++ [r] } ∧
      exec (.decFull offset length (bytes ++ more)) s = .next { s with outbox := s.outbox ++ [r] }

/-- 41_frame_codec.md R165: the byte at the offset is not looked at; the length argument is not compared with the
length bytes, since at any offset a span of that length with the right checksum is answered OK whatever the two length
bytes `hi`, `lo` are; and the two calls of the rule. -/
def Obligations.DecFullChecksNeitherMarkerNorLengthBytes : Prop :=
  (∀ (offset : Nat) (length : Word) (bytes : List Byte) (b : Byte) (s : State),
    ∃ r, exec (.decFull offset length bytes) s = .next { s with outbox := s.outbox ++ [r] } ∧
      exec (.decFull offset length (bytes.set offset b)) s = .next { s with outbox := s.outbox ++ [r] }) ∧
  (∀ (noise : List Byte) (m v hi lo : Byte) (p : List Byte) (s : State), p.length ≤ 65535 →
    ∃ c, c = checksum (v :: hi :: lo :: p) ∧
      exec (.decFull noise.length (BitVec.ofNat 16 p.length)
          (noise ++ m :: v :: hi :: lo :: p ++ be16 c ++ [0x55#8])) s =
        .next { s with outbox := s.outbox ++
          [.ok (.frame { version := v, length := BitVec.ofNat 16 p.length, payload := p, checksum := c })] }) ∧
  ∀ s : State,
    exec (.decFull 0 5#16 (helloFrame.set 0 0xBB#8)) s = .next { s with outbox := s.outbox ++
      [.ok (.frame { version := 0x01#8, length := 5#16, payload := [0x48#8, 0x65#8, 0x6C#8, 0x6C#8, 0x6F#8],
                     checksum := 0xFE3A#16 })] } ∧
    exec (.decFull 0 4#16 helloFrame) s = .next { s with outbox := s.outbox ++ [.failed .invalidChecksum] } ∧
    checksumListing (helloSpan.take 7) = 0x1251 ∧ u16be helloFrame 8 = 0x6FFE#16

/-- 41_frame_codec.md R166: what `DEC.HDR` answers at offset 0 if that is no header, else what `DEC.FULL` answers for
the length of the header. -/
def Obligations.DecodeComposesHeaderAndBody : Prop :=
  ∀ (bytes : List Byte) (s : State),
    (bytes.length < 4294967296 →
      decode (.command (0x13#8 :: be32 (BitVec.ofNat 32 bytes.length) ++ bytes)) = .ok (.decode bytes)) ∧
    ∃ r, exec (.decHdr 0 bytes) s = .next { s with outbox := s.outbox ++ [r] } ∧
      match r with
      | .ok (.header h) => ∃ r', exec (.decFull 0 h.length bytes) s = .next { s with outbox := s.outbox ++ [r'] } ∧
          exec (.decode bytes) s = .next { s with outbox := s.outbox ++ [r'] }
      | _ => exec (.decode bytes) s = .next { s with outbox := s.outbox ++ [r] }

/-- Inference of 41_frame_codec.md R168. -/
def Obligations.DecodeOkExactlyForValidFrames : Prop :=
  ∀ (bytes : List Byte) (s : State),
    ((∃ f, exec (.decode bytes) s = .next { s with outbox := s.outbox ++ [.ok (.frame f)] }) ↔
      ValidFrameAt bytes 0) ∧
    ∀ o : Nat, ValidFrameAt bytes o ↔
      ∃ h f, exec (.decHdr o bytes) s = .next { s with outbox := s.outbox ++ [.ok (.header h)] } ∧
        exec (.decFull o h.length bytes) s = .next { s with outbox := s.outbox ++ [.ok (.frame f)] }

/-- Inference of 41_frame_codec.md R167: a frame that `ENCODE` answers is decoded by `DECODE` to its version and
payload, and fed to an instance in reset state that can hold it, it is emitted and leaves the instance in reset state.
-/
def Obligations.DecodeOfEncodeGivesTheFrameBack : Prop :=
  ∀ (v : Byte) (p : List Byte) (s : State), p.length ≤ 65535 →
    ∃ f c, exec (.encode v p) s = .next { s with outbox := s.outbox ++ [.ok (.encoded f)] } ∧
      c = checksum (v :: be16 (BitVec.ofNat 16 p.length) ++ p) ∧
      exec (.decode f) s = .next { s with outbox := s.outbox ++
        [.ok (.frame { version := v, length := BitVec.ofNat 16 p.length, payload := p, checksum := c })] } ∧
      ∀ (maxBuf : Nat) (obs : Bool), f.length ≤ maxBuf →
        exec (.feed f) (State.create maxBuf obs) =
          .next { State.create maxBuf obs with outbox := [.ok (.payloads [p])] }

/-- Inference of 60_exceptions.md R252, and the column "written by" of 10_state.md R20: `CS.BLOCK`, `CS.READ`,
`ENCODE`, `DEC.HDR`, `DEC.FULL`, `DECODE`, `STATUS` and a reserved opcode change nothing but the responses; no byte of
the buffer reads otherwise. -/
def Obligations.PureOperationsChangeNoState : Prop :=
  ∀ (i : Instr) (s : State), writesNoState i = true →
    ∃ t r, exec i s = .next t ∧ t = { s with outbox := s.outbox ++ [r] } ∧
      ∀ offset, t.readByte offset = s.readByte offset

/-! ## Stream Decoder -/

/-- 42_stream_decoder.md R192. -/
def Obligations.FeedIsRefusedWhileFaulted : Prop :=
  ∀ (chunk : List Byte) (s : State), s.fault = true →
    exec (.feed chunk) s = .next { s with outbox := s.outbox ++ [.failed .bufferOverflow] }

/-- 60_exceptions.md R251. -/
def Obligations.FeedPastTheBoundOnlySetsFault : Prop :=
  ∀ (chunk : List Byte) (s : State), s.fault = false → s.maxBuf < s.buffer.length + chunk.length →
    exec (.feed chunk) s = .next { s with fault := true, outbox := s.outbox ++ [.failed .bufferOverflow] }

/-- An accepted `FEED` runs the drain loop as the steps of 42_stream_decoder.md R195 say; with the inference of R202,
that the loop ends within `3 * (|buffer| + 1)` passes. The premise on `cap_len` is 10_state.md R25;
`StepKeepsTheInvariant` holds it in every state a run reaches. -/
def Obligations.FeedDrainsAsTheTableSays : Prop :=
  ∀ (chunk : List Byte) (s : State), s.fault = false → s.buffer.length + chunk.length ≤ s.maxBuf →
    (s.phase ≠ .bodyWait → s.capLen = 0#16) →
    ∃ n t ps, Drains n { s with buffer := s.buffer ++ chunk } t ps ∧
      n ≤ 3 * ((s.buffer ++ chunk).length + 1) ∧
      exec (.feed chunk) s = .next { t with outbox := t.outbox ++ [.ok (.payloads ps)] }

/-- Parts of 42_stream_decoder.md R191 and 10_state.md R20, R22: the packet of a `FEED`; it always completes, with one
response, and writes nothing but `buffer`, `state`, `cap_len`, `fault` and the event stream; the buffer is the old one,
or what is left of the old one and the chunk after dropping from the front. -/
def Obligations.FeedWritesOnlyTheDecoder : Prop :=
  ∀ (chunk : List Byte) (s : State),
    (chunk.length < 4294967296 →
      decode (.command (0x20#8 :: be32 (BitVec.ofNat 32 chunk.length) ++ chunk)) = .ok (.feed chunk)) ∧
    ∃ b p c f e r, exec (.feed chunk) s = .next { s with
        buffer := b, phase := p, capLen := c, fault := f, events := s.events ++ e, outbox := s.outbox ++ [r] } ∧
      (b = s.buffer ∨ b <:+ s.buffer ++ chunk)

/-- 42_stream_decoder.md R194: an empty chunk is legal and, in every state with the invariant and without a fault,
changes no state. -/
def Obligations.EmptyFeedChangesNothing : Prop :=
  ∀ s : State, Inv s → s.fault = false →
    exec (.feed []) s = .next { s with outbox := s.outbox ++ [.ok (.payloads [])] }

/-- 42_stream_decoder.md R206 and 70_reset_and_hazards.md R280: `RESET` puts the decoder state at the values of a new
instance and leaves `crc_acc` and everything else alone. -/
def Obligations.ResetClearsTheDecoderState : Prop :=
  decode (.command [0x21#8]) = .ok .reset ∧ (Response.ok .nothing).packet = [0x00#8] ∧
  ∀ s : State,
    exec .reset s = .next { s with buffer := [], phase := .scanning, capLen := 0#16, fault := false,
                                   outbox := s.outbox ++ [.ok .nothing] } ∧
    exec .reset s = .next { State.create s.maxBuf s.obsEvents with
      crcAcc := s.crcAcc, events := s.events, inbox := s.inbox, outbox := s.outbox ++ [.ok .nothing] }

/-- What `STATUS` answers (42_stream_decoder.md R207), and its eleven bytes (30_encoding.md R100). For a buffer of 2^32
bytes or more, which no run reaches, bytes 5 to 8 are its length modulo 2^32, which is the model's choice (log 10), not
the rule's. -/
def Obligations.StatusReadsOutTheState : Prop :=
  decode (.command [0x22#8]) = .ok .status ∧
  (∀ s : State, ∃ r, exec .status s = .next { s with outbox := s.outbox ++ [r] } ∧
    r = .ok (.status { phase := s.phase, fault := s.fault, capLen := s.capLen, bufferLen := s.buffer.length,
                       crcAcc := s.crcAcc }) ∧
    r.packet = [0x00#8, match s.phase with | .scanning => 0x00#8 | .headerWait => 0x01#8 | .bodyWait => 0x02#8,
                if s.fault then 0x01#8 else 0x00#8] ++ be16 s.capLen ++ be32 (BitVec.ofNat 32 s.buffer.length) ++
                be16 s.crcAcc ∧
    r.packet.length = 11) ∧
  (Response.ok (.status State.reset.statusView)).packet =
    [0x00#8, 0x00#8, 0x00#8, 0x00#8, 0x00#8, 0x00#8, 0x00#8, 0x00#8, 0x00#8, 0xFF#8, 0xFF#8]

/-- Inference of 42_stream_decoder.md R208: one `FEED` of a stream and the `FEED`s of its chunks give the same
payloads, the same events and the same decoder state. That no `FEED` overflows is the one hypothesis on the bound. -/
def Obligations.ChunkingDoesNotMatter : Prop :=
  ∀ (chunks : List (List Byte)) (s : State), Inv s → s.fault = false →
    s.buffer.length + chunks.flatten.length ≤ s.maxBuf →
    ∃ (t u : State) (ps : List (List Byte)) (qs : List (List (List Byte))),
      exec (.feed chunks.flatten) s = .next t ∧ runOps (chunks.map .feed) s = .next u ∧
      t.outbox = s.outbox ++ [.ok (.payloads ps)] ∧
      u.outbox = s.outbox ++ qs.map (fun q => .ok (.payloads q)) ∧
      qs.length = chunks.length ∧ qs.flatten = ps ∧
      u.buffer = t.buffer ∧ u.phase = t.phase ∧ u.capLen = t.capLen ∧ u.events = t.events

/-- Inference of 42_stream_decoder.md R209: from reset state, as long as no `FEED` overflows, the payloads emitted for
the whole input and the state left are those of `parse`. -/
def Obligations.FeedsEmitTheParseOfTheStream : Prop :=
  ∀ (chunks : List (List Byte)) (maxBuf : Nat) (obs : Bool),
    ∃ t, runOps (chunks.map .feed) (State.create maxBuf obs) = .next t ∧
      (t.fault = false →
        emittedPayloads t.outbox = (parse chunks.flatten).1 ∧ t.buffer = (parse chunks.flatten).2 ∧
        t.phase = (if t.buffer = [] then .scanning else if t.buffer.length < 4 then .headerWait else .bodyWait) ∧
        t.capLen = (if t.buffer.length < 4 then 0#16 else u16be t.buffer 2))

/-- Inference of 42_stream_decoder.md R210: from an empty buffer, a strict prefix of a frame emits nothing and waits in
the state the rule names; the rest then completes the frame, which is emitted once, and leaves the state of the start.
-/
def Obligations.TruncationNeverEmits : Prop :=
  ∀ (v : Byte) (p : List Byte) (k : Nat) (s : State), p.length ≤ 65535 → k < 7 + p.length →
    s.phase = .scanning → s.buffer = [] → s.capLen = 0#16 → s.fault = false → 7 + p.length ≤ s.maxBuf →
    ∃ f t, exec (.encode v p) s = .next { s with outbox := s.outbox ++ [.ok (.encoded f)] } ∧
      exec (.feed (f.take k)) s = .next t ∧ t.outbox = s.outbox ++ [.ok (.payloads [])] ∧
      t.phase = (if k = 0 then .scanning else if k < 4 then .headerWait else .bodyWait) ∧
      exec (.feed (f.drop k)) t =
        .next { s with outbox := s.outbox ++ [.ok (.payloads []), .ok (.payloads [p])] }

/-- Inference of 42_stream_decoder.md R212 (c): frames among noise that holds no `0xAA` are emitted, exactly they, with
no event, and the buffer is left empty. -/
def Obligations.FramesAmongMarkerlessNoiseAreEmitted : Prop :=
  ∀ (parts : List (List Byte × Byte × List Byte)) (tail : List Byte) (s : State),
    (∀ g ∈ parts, 0xAA#8 ∉ g.1 ∧ g.2.2.length ≤ 65535) → 0xAA#8 ∉ tail →
    s.phase = .scanning → s.buffer = [] → s.capLen = 0#16 → s.fault = false →
    ((parts.flatMap fun g => g.1 ++ frameOf g.2.1 g.2.2) ++ tail).length ≤ s.maxBuf →
    exec (.feed ((parts.flatMap fun g => g.1 ++ frameOf g.2.1 g.2.2) ++ tail)) s =
      .next { s with outbox := s.outbox ++ [.ok (.payloads (parts.map fun g => g.2.2))] }

/-- Inference of 42_stream_decoder.md R211: a whole frame with a wrong checksum or a wrong end marker and no `0xAA`
after its first byte costs one event and does not keep the valid frame behind it from being emitted. -/
def Obligations.CorruptedFrameCostsOneEvent : Prop :=
  ∀ (rest : List Byte) (f : Failure) (v : Byte) (p : List Byte) (s : State),
    0xAA#8 ∉ rest → rest.length = 6 + lengthAt (0xAA#8 :: rest) 0 →
    decodeFull (0xAA#8 :: rest) 0 (u16be (0xAA#8 :: rest) 2) = .error f → p.length ≤ 65535 →
    s.phase = .scanning → s.buffer = [] → s.capLen = 0#16 → s.fault = false →
    rest.length + 8 + p.length ≤ s.maxBuf →
    exec (.feed (0xAA#8 :: rest ++ frameOf v p)) s = .next { s with
      events := if s.obsEvents then s.events ++ [failureCode f] else s.events,
      outbox := s.outbox ++ [.ok (.payloads [p])] }

/-- Inference of 42_stream_decoder.md R212 (a) and (b): every emitted payload is that of a valid frame of the stream
fed since reset; their offsets rise strictly and their spans do not overlap. -/
def Obligations.EmittedPayloadsAreValidFramesInOrder : Prop :=
  ∀ (chunks : List (List Byte)) (maxBuf : Nat) (obs : Bool),
    ∃ t, runOps (chunks.map .feed) (State.create maxBuf obs) = .next t ∧
      (t.fault = false → EmittedFrom chunks.flatten 0 (emittedPayloads t.outbox))

/-- Inference of 42_stream_decoder.md R213: with the default bound, a chunk without a marker that is larger than 1 048
576 bytes overflows; one that is not larger is discarded whole and the instance is as before, so any number of them is
accepted. -/
def Obligations.FloodOverflowsOnlyInOneLargeChunk : Prop :=
  ∀ (chunk : List Byte) (s : State), 0xAA#8 ∉ chunk →
    s.phase = .scanning → s.buffer = [] → s.capLen = 0#16 → s.fault = false → s.maxBuf = 1048576 →
    exec (.feed chunk) s =
      if chunk.length ≤ 1048576 then .next { s with outbox := s.outbox ++ [.ok (.payloads [])] }
      else .next { s with fault := true, outbox := s.outbox ++ [.failed .bufferOverflow] }

/-- Inference of 42_stream_decoder.md R214 and 70_reset_and_hazards.md R289: between operations, without a fault, a
chunk of at most `MAX_BUF - 65541` bytes is accepted. -/
def Obligations.SmallEnoughChunkIsAccepted : Prop :=
  ∀ (chunk : List Byte) (s : State), Inv s → s.fault = false → chunk.length + 65541 ≤ s.maxBuf →
    ∃ t ps, exec (.feed chunk) s = .next t ∧ t.fault = false ∧ t.outbox = s.outbox ++ [.ok (.payloads ps)]

/-- Inference of 00_scope.md R12: a frame larger than `MAX_BUF` is never emitted by `FEED`. -/
def Obligations.NoFrameLargerThanTheBoundIsEmitted : Prop :=
  ∀ (chunk : List Byte) (s : State), Inv s →
    ∃ t r, exec (.feed chunk) s = .next t ∧ t.outbox = s.outbox ++ [r] ∧
      ∀ ps, r = .ok (.payloads ps) → ∀ p ∈ ps, 7 + p.length ≤ s.maxBuf

/-- The part of 10_state.md R26 about the bit itself: after an operation `fault` is 1 exactly if it was and the
operation is not `RESET`, or the operation fed bytes that would exceed the bound. -/
def Obligations.FaultIsStickyUntilReset : Prop :=
  ∀ (i : Instr) (s : State), ∃ t, exec i s = .next t ∧
    (t.fault = true ↔
      (s.fault = true ∧ i ≠ .reset) ∨ ∃ c, fedBytes i = some c ∧ s.maxBuf < s.buffer.length + c.length)

/-- 10_state.md R41: an operation after which `fault` is 1, be it the `FEED` that set it or a later one, leaves
`buffer`, `state` and `cap_len` as they were, and no operation but `RESET` clears `fault`. -/
def Obligations.FaultFreezesTheDecoder : Prop :=
  ∀ (i : Instr) (s : State), i ≠ .reset →
    ∃ t, exec i s = .next t ∧ (s.fault = true → t.fault = true) ∧
      (t.fault = true → t.buffer = s.buffer ∧ t.phase = s.phase ∧ t.capLen = s.capLen)

/-- The last part of 30_encoding.md R97: `OBS_EVENTS` and the event stream influence nothing, and with `OBS_EVENTS`
false nothing is recorded. -/
def Obligations.EventStreamInfluencesNothing : Prop :=
  ∀ (i : Instr) (s : State) (obs : Bool) (evs : List Byte),
    ∃ t evs', exec i s = .next t ∧
      exec i { s with obsEvents := obs, events := evs } = .next { t with obsEvents := obs, events := evs' } ∧
      (obs = false → evs' = evs)

/-! ## The rows that are no operation of the document -/

/-- The part of 30_encoding.md R96 about reserved opcodes: response `IllegalCommand`, nothing else. -/
def Obligations.ReservedOpcodeAnswersIllegalCommand : Prop :=
  ∀ (opcode : Byte) (rest : List Byte) (s : State),
    exec (.reserved opcode rest) s = .next { s with outbox := s.outbox ++ [.failed .illegalCommand] }

/-- The model's choice (log 6): the two frame rows are `FEED`s of their bytes (30_encoding.md R80). -/
def Obligations.FramePartsAreFeedsOfTheirBytes : Prop :=
  (∀ (v : Byte) (l : Word) (s : State), ∃ t,
    exec (.feed [0xAA#8, v, l.extractLsb' 8 8, l.extractLsb' 0 8]) s = .next t ∧
    exec (.frameHeader v l) s = .next t) ∧
  ∀ (c : Word) (s : State), ∃ t,
    exec (.feed [c.extractLsb' 8 8, c.extractLsb' 0 8, 0x55#8]) s = .next t ∧ exec (.frameTrailer c) s = .next t

/-- The model's choice of what a frame row is (log 6), with 42_stream_decoder.md R197, R198: from an empty buffer a
frame header is held as a candidate of its declared length, whatever the version and the length. -/
def Obligations.FrameHeaderOpensACandidate : Prop :=
  ∀ (v : Byte) (l : Word) (s : State),
    s.phase = .scanning → s.buffer = [] → s.fault = false → 4 ≤ s.maxBuf →
    exec (.frameHeader v l) s = .next { s with
      buffer := [0xAA#8, v, l.extractLsb' 8 8, l.extractLsb' 0 8], phase := .bodyWait, capLen := l,
      outbox := s.outbox ++ [.ok (.payloads [])] }

/-- The model's choice of what a frame row is (log 6), with 42_stream_decoder.md R200: behind a header and its whole
payload, the trailer with the right checksum has the payload emitted and the buffer emptied. -/
def Obligations.FrameTrailerCompletesACandidate : Prop :=
  ∀ (v : Byte) (p : List Byte) (s : State), p.length ≤ 65535 →
    s.phase = .bodyWait → s.capLen = BitVec.ofNat 16 p.length → s.fault = false → 7 + p.length ≤ s.maxBuf →
    s.buffer = 0xAA#8 :: v :: be16 (BitVec.ofNat 16 p.length) ++ p →
    exec (.frameTrailer (checksum (v :: be16 (BitVec.ofNat 16 p.length) ++ p))) s = .next { s with
      buffer := [], phase := .scanning, capLen := 0#16, outbox := s.outbox ++ [.ok (.payloads [p])] }

/-! ## The command channel and the step -/

/-- Every well-formed instruction is decoded from its encoding, with every operand. The command packets and the opcodes
are 30_encoding.md R92 and R93, the bytes of the two frame rows R80. That those bytes, as a wire segment, decode to the
row is the model's choice (log 6), and that a packet of a reserved opcode decodes to an instruction is its deduction
from R96 (log 12). -/
def Obligations.DecodeOfEncodeIsTheInstruction : Prop :=
  ∀ i : Instr, i.WellFormed → decode (encode i) = .ok i

/-- A command packet that is decoded is the one encoding of the instruction, which is well formed (30_encoding.md R92,
R93). That a packet of a reserved opcode decodes to an instruction is the model's deduction from R96 (log 12). -/
def Obligations.EncodeOfDecodeIsThePacket : Prop :=
  ∀ (packet : List Byte) (i : Instr), decode (.command packet) = .ok i →
    i.WellFormed ∧ encode i = .command packet

/-- No `FEED` that a step runs has a chunk of more than 2^32 - 1 bytes (00_scope.md R11), and every instruction a step
runs is one that a packet can express. That a longer wire segment is answered as the malformed packet it is a shorthand
for is the model's choice (log 6). -/
def Obligations.DecodedOperandsFitAPacket : Prop :=
  (∀ (input : HostInput) (i : Instr), decode input = .ok i →
    i.WellFormed ∧ ∀ chunk, fedBytes i = some chunk → chunk.length ≤ 4294967295) ∧
  ∀ (segment : List Byte) (more : List HostInput) (s : State),
    s.inbox = .wire segment :: more → 4294967295 < segment.length →
    step s = .next { s with inbox := more, outbox := s.outbox ++ [.failed .illegalCommand] }

/-- 30_encoding.md R96: a malformed packet is answered with `IllegalCommand` and changes nothing, and a packet that is
not malformed is an operation that has an opcode. -/
def Obligations.MalformedPacketsAreIllegalCommands : Prop :=
  ∀ (packet : List Byte) (more : List HostInput) (s : State), s.inbox = .command packet :: more →
    (Malformed packet →
      step s = .next { s with inbox := more, outbox := s.outbox ++ [.failed .illegalCommand] }) ∧
    (¬ Malformed packet → ∃ i, decode (.command packet) = .ok i ∧ (∀ op rest, i ≠ .reserved op rest) ∧
      step s = exec i { s with inbox := more })

/-- The opcode map of 30_encoding.md R93, and packets written out from the formats of R92. The last two clauses take
bytes of the wire format of R80; that such a segment decodes to the frame row is the model's choice (log 6). -/
def Obligations.WordsDecodeAsTheTablesSay : Prop :=
  (∀ b : Byte, (operationOf b).isSome = true ↔
    b ∈ [0x01#8, 0x02#8, 0x03#8, 0x04#8, 0x10#8, 0x11#8, 0x12#8, 0x13#8, 0x20#8, 0x21#8, 0x22#8]) ∧
  decode (.command [0x20#8, 0#8, 0#8, 0#8, 2#8, 0xAA#8, 0x01#8]) = .ok (.feed [0xAA#8, 0x01#8]) ∧
  decode (.command [0x12#8, 0#8, 0#8, 1#8, 2#8, 3#8, 4#8, 0#8, 0#8, 0#8, 1#8, 0x77#8]) =
    .ok (.decFull 258 0x0304#16 [0x77#8]) ∧
  decode (.command [0x10#8, 0x01#8, 0#8, 0#8, 0#8, 0#8]) = .ok (.encode 0x01#8 []) ∧
  decode (.wire [0xAA#8, 0x01#8, 0x00#8, 0x05#8]) = .ok (.frameHeader 0x01#8 0x0005#16) ∧
  decode (.wire [0xFE#8, 0x3A#8, 0x55#8]) = .ok (.frameTrailer 0xFE3A#16)

/-- A step executes the instruction that the oldest input decodes to, on the state with that input taken
(30_encoding.md R91). -/
def Obligations.StepRunsTheDecodedInstruction : Prop :=
  ∀ (s : State) (input : HostInput) (more : List HostInput) (i : Instr),
    s.inbox = input :: more → decode input = .ok i → step s = exec i { s with inbox := more }

/-- The model's choice (log 5), after 60_exceptions.md R248: without an input a step changes nothing. -/
def Obligations.StepWithoutInputChangesNothing : Prop :=
  ∀ s : State, s.inbox = [] → step s = .next s

/-- No step faults or is refused (60_exceptions.md R240: every outcome is a response), and each input that is taken
gets exactly one response (30_encoding.md R91); the static parameters stay (10_state.md R27). -/
def Obligations.EveryInputGetsExactlyOneResponse : Prop :=
  ∀ (s : State) (input : HostInput) (more : List HostInput), s.inbox = input :: more →
    ∃ t r, step s = .next t ∧ t.inbox = more ∧ t.outbox = s.outbox ++ [r] ∧
      t.maxBuf = s.maxBuf ∧ t.obsEvents = s.obsEvents

/-- The status codes of 30_encoding.md R95 and the layouts of R94. For a count, an offset or a length that does not fit
its field the bytes are those of the number modulo the field, which is the model's choice (log 10), not the rule's. -/
def Obligations.ResponsePacketsHaveTheirLayout : Prop :=
  (∀ r : Reply, ∃ body, (Response.ok r).packet = 0x00#8 :: body) ∧
  (Response.ok .nothing).packet = [0x00#8] ∧
  (∀ v : Word, (Response.ok (.value v)).packet = 0x00#8 :: be16 v) ∧
  (∀ f : List Byte, (Response.ok (.encoded f)).packet = 0x00#8 :: be32 (BitVec.ofNat 32 f.length) ++ f) ∧
  (∀ h : Header, (Response.ok (.header h)).packet = 0x00#8 :: h.version :: be16 h.length) ∧
  (∀ f : Frame, (Response.ok (.frame f)).packet =
    0x00#8 :: f.version :: be16 f.length ++ f.payload ++ be16 f.checksum) ∧
  (∀ ps : List (List Byte), (Response.ok (.payloads ps)).packet = 0x00#8 :: be32 (BitVec.ofNat 32 ps.length) ++
    ps.flatMap fun p => be16 (BitVec.ofNat 16 p.length) ++ p) ∧
  (Response.failed .incomplete).packet = [0x01#8] ∧
  (∀ o : Nat, (Response.failed (.invalidMarker o)).packet = 0x02#8 :: be32 (BitVec.ofNat 32 o)) ∧
  (Response.failed .invalidChecksum).packet = [0x03#8] ∧
  (Response.failed .invalidEndMarker).packet = [0x04#8] ∧
  (Response.failed .payloadTooLarge).packet = [0x05#8] ∧
  (Response.failed .bufferOverflow).packet = [0x06#8] ∧
  (Response.failed .illegalCommand).packet = [0x07#8]

/-- 20_memory.md R51: big-endian fields, written and read back. -/
def Obligations.FieldsAreBigEndian : Prop :=
  (∀ v : Word, be16 v = [v.extractLsb' 8 8, v.extractLsb' 0 8] ∧ u16be (be16 v) 0 = v) ∧
  (∀ (s : List Byte) (i : Nat), (u16be s i).toNat = (byteAt s i).toNat * 256 + (byteAt s (i + 1)).toNat) ∧
  be16 5#16 = [0x00#8, 0x05#8] ∧
  (∀ v : BitVec 32, be32 v = [v.extractLsb' 24 8, v.extractLsb' 16 8, v.extractLsb' 8 8, v.extractLsb' 0 8]) ∧
  ∀ b3 b2 b1 b0 : Byte, (dwordOf b3 b2 b1 b0).toNat =
    ((b3.toNat * 256 + b2.toNat) * 256 + b1.toNat) * 256 + b0.toNat ∧ be32 (dwordOf b3 b2 b1 b0) = [b3, b2, b1, b0]

/-- Some of 30_encoding.md R98, R99: lines of the textual notation and the operations they stand for. -/
def Obligations.LinesReadAsTheirOperations : Prop :=
  assembleLine "DEC.FULL 2, 0x0005, [AA 01] ; comment".toList = some [.decFull 2 0x0005#16 [0xAA#8, 0x01#8]] ∧
  assembleLine "ENCODE 0x01, [48 65] -> OK".toList = some [.encode 0x01#8 [0x48#8, 0x65#8]] ∧
  assembleLine "CONNECT".toList = some [.reset] ∧
  assembleLine "CS.STREAM [01], [02 03]".toList =
    some [.csInit, .csUpdate [0x01#8], .csUpdate [0x02#8, 0x03#8], .csRead] ∧
  assembleLine "FEEDB [01 02]".toList = some [.feed [0x01#8], .feed [0x02#8]]

/-! ## Reset and the invariant -/

/-- 70_reset_and_hazards.md R281 (values of 10_state.md R42): the state after hardware reset, for any static
parameters, in which any operation can be executed. -/
def Obligations.HardwareResetLeavesTheResetValues : Prop :=
  ∀ (maxBuf : Nat) (obs : Bool), ∃ s, s = State.create maxBuf obs ∧
    s.crcAcc = 0xFFFF#16 ∧ s.buffer = [] ∧ s.scanCursor.val = 0 ∧ s.phase = .scanning ∧ s.capLen = 0#16 ∧
    s.fault = false ∧ s.maxBuf = maxBuf ∧ s.events = [] ∧ ∀ i : Instr, ∃ t, exec i s = .next t

/-- The invariant holds after hardware reset (10_state.md section 3). -/
def Obligations.InvariantHoldsAfterReset : Prop :=
  Inv State.reset ∧ ∀ (maxBuf : Nat) (obs : Bool), Inv (State.create maxBuf obs)

/-- Inferences of 10_state.md R37, R38, R39 and 20_memory.md R69: every step from a state with the invariant, reached
or not, gives a state with the invariant. -/
def Obligations.StepKeepsTheInvariant : Prop :=
  ∀ s : State, Inv s → ∃ t, step s = .next t ∧ Inv t

/-- Inference of 10_state.md R40: what the invariant says of `scan_cursor`, of the size of the buffer and of `cap_len`.
-/
def Obligations.BufferStaysWithinItsBounds : Prop :=
  ∀ s : State, Inv s →
    s.scanCursor.val = 0 ∧ s.buffer.length ≤ min s.maxBuf 65541 ∧ (s.phase ≠ .bodyWait → s.capLen = 0#16)

/-! ## Several instances -/

/-- 20_memory.md R66: whatever the interleaving, an instance ends as it does running its own operations alone. -/
def Obligations.InstancesDoNotDisturbEachOther : Prop :=
  ∀ (schedule : List Nat) (sys : System) (j : Nat) (s : State), sys.instances[j]? = some s →
    ∃ sys' t, System.runSchedule schedule sys = .next sys' ∧ sys'.instances[j]? = some t ∧
      Host.Core.run Sys2Proof.core (schedule.count j) s = .next t
end

