-- ==== Sys2Proof/Laws/Operands.lean ====
section
/-!
SUPPORT. What the operand primitives give: fields written and read back, availability, slices, the marker search, and the
opcode map.
-/

namespace Sys2Proof.Machine

-- The lemmas are elaborated one after another: a build under a memory limit then needs few threads.
set_option Elab.async false

/-! ### Fields -/

@[simp] theorem wordOf_toNat (hi lo : Byte) : (wordOf hi lo).toNat = hi.toNat * 256 + lo.toNat := by
  have h := hi.isLt
  have l := lo.isLt
  simp only [wordOf, BitVec.toNat_append]
  rw [← Nat.shiftLeft_add_eq_or_of_lt (by simpa using l), Nat.shiftLeft_eq]

theorem wordOf_extract (v : Word) : wordOf (v.extractLsb' 8 8) (v.extractLsb' 0 8) = v := by
  apply BitVec.eq_of_toNat_eq
  simp only [wordOf_toNat, BitVec.extractLsb'_toNat, Nat.shiftRight_eq_div_pow]
  have := v.isLt
  omega

theorem be16_wordOf (hi lo : Byte) : be16 (wordOf hi lo) = [hi, lo] := by
  have h := hi.isLt
  have l := lo.isLt
  simp only [be16, List.cons.injEq, and_true]
  constructor <;> apply BitVec.eq_of_toNat_eq <;>
    simp only [BitVec.extractLsb'_toNat, wordOf_toNat, Nat.shiftRight_eq_div_pow] <;> omega

@[simp] theorem dwordOf_toNat (b3 b2 b1 b0 : Byte) :
    (dwordOf b3 b2 b1 b0).toNat = ((b3.toNat * 256 + b2.toNat) * 256 + b1.toNat) * 256 + b0.toNat := by
  have h2 := b2.isLt
  have h1 := b1.isLt
  have h0 := b0.isLt
  simp only [dwordOf, BitVec.toNat_append]
  rw [← Nat.shiftLeft_add_eq_or_of_lt (by simpa using h0), ← Nat.shiftLeft_add_eq_or_of_lt (by simpa using h1),
    ← Nat.shiftLeft_add_eq_or_of_lt (by simpa using h2)]
  simp only [Nat.shiftLeft_eq]

theorem dwordOf_extract (v : BitVec 32) :
    dwordOf (v.extractLsb' 24 8) (v.extractLsb' 16 8) (v.extractLsb' 8 8) (v.extractLsb' 0 8) = v := by
  apply BitVec.eq_of_toNat_eq
  simp only [dwordOf_toNat, BitVec.extractLsb'_toNat, Nat.shiftRight_eq_div_pow]
  have := v.isLt
  omega

theorem be32_dwordOf (b3 b2 b1 b0 : Byte) : be32 (dwordOf b3 b2 b1 b0) = [b3, b2, b1, b0] := by
  have h3 := b3.isLt
  have h2 := b2.isLt
  have h1 := b1.isLt
  have h0 := b0.isLt
  simp only [be32, List.cons.injEq, and_true]
  refine ⟨?_, ?_, ?_, ?_⟩ <;> apply BitVec.eq_of_toNat_eq <;>
    simp only [BitVec.extractLsb'_toNat, dwordOf_toNat, Nat.shiftRight_eq_div_pow] <;> omega

@[simp] theorem be16_length (v : Word) : (be16 v).length = 2 := rfl

@[simp] theorem be32_length (v : BitVec 32) : (be32 v).length = 4 := rfl

/-! ### Availability, slices, the marker search -/

@[simp] theorem avail_zero (s : List Byte) : avail s 0 = s.length := by simp [avail]

theorem avail_eq (s : List Byte) (off : Nat) : avail s off = s.length - off := by
  unfold avail; split <;> omega

theorem slice_length (s : List Byte) (a b : Nat) : (slice s a b).length = min (b - a) (s.length - a) := by
  simp [slice]

theorem byteAt_append_left {s : List Byte} {i : Nat} (t : List Byte) (h : i < s.length) :
    byteAt (s ++ t) i = byteAt s i := by
  simp [byteAt, List.getD_eq_getElem?_getD, List.getElem?_append_left h]

theorem byteAt_drop (s : List Byte) (n i : Nat) : byteAt (s.drop n) i = byteAt s (n + i) := by
  simp [byteAt, List.getD_eq_getElem?_getD, List.getElem?_drop]

/-- No marker: the search from 0 gives `none` exactly when no byte is the marker (20_memory.md R58). -/
theorem findMarker_eq_none {s : List Byte} : findMarker s 0 = none ↔ 0xAA#8 ∉ s := by
  simp only [findMarker, List.drop_zero, Option.map_eq_none_iff, List.findIdx?_eq_none_iff, Config.startMarker]
  constructor
  · intro h hm; simpa using h _ hm
  · intro h x hx; simp only [beq_eq_false_iff_ne, ne_eq]; rintro rfl; exact h hx

/-- A marker at `i`: the bytes before it hold no marker (20_memory.md R58; 92_eei_decisions.md D28). -/
theorem findMarker_eq_some {s : List Byte} {i : Nat} (h : findMarker s 0 = some i) :
    ∃ noise more, s = noise ++ 0xAA#8 :: more ∧ 0xAA#8 ∉ noise ∧ noise.length = i := by
  simp only [findMarker, List.drop_zero, Nat.add_zero, Option.map_eq_some_iff, exists_eq_right] at h
  obtain ⟨hi, hm, hlt⟩ := List.findIdx?_eq_some_iff_getElem.mp h
  refine ⟨s.take i, s.drop (i + 1), ?_, ?_, by simp; omega⟩
  · have : s[i] = 0xAA#8 := by simpa [Config.startMarker] using hm
    rw [← this, List.getElem_cons_drop, List.take_append_drop]
  · intro hmem
    obtain ⟨j, hj, hjs⟩ := List.mem_iff_getElem.mp hmem
    have hj' : j < i := by simp at hj; omega
    have := hlt j hj'
    simp [Config.startMarker] at this
    simp at hjs
    exact this hjs

/-- The search from 0 past bytes that hold no marker. -/
theorem findMarker_append_marker {noise : List Byte} (more : List Byte) (h : 0xAA#8 ∉ noise) :
    findMarker (noise ++ 0xAA#8 :: more) 0 = some noise.length := by
  simp only [findMarker, List.drop_zero, Nat.add_zero, Option.map_eq_some_iff, exists_eq_right]
  rw [List.findIdx?_eq_some_iff_getElem]
  refine ⟨by simp, by simp [Config.startMarker], ?_⟩
  intro j hj
  rw [List.getElem_append_left hj]
  simp only [Config.startMarker, beq_iff_eq]
  intro he
  exact h (he ▸ List.getElem_mem hj)

/-! ### Wire segments -/

/-- A wire segment is decoded exactly if a `FEED` packet can carry it (00_scope.md R11; log 6). -/
theorem decode_wire_eq_ok {segment : List Byte} {i : Instr} :
    decode (.wire segment) = .ok i ↔ segment.length < packetFieldBound ∧ decodeWire segment = i := by
  by_cases h : segment.length < packetFieldBound <;> simp [decode, dataFits, h]

/-- One segment too long is rejected by name. -/
theorem decode_wire_too_long {segment : List Byte} (h : packetFieldBound ≤ segment.length) :
    decode (.wire segment) = .error .segmentTooLong := by
  simp [decode, dataFits, Nat.not_lt.mpr h]

/-! ### The opcode map -/

/-- Every operation is named by its opcode (30_encoding.md R93). -/
theorem operationOf_opcodeOf (o : Operation) : operationOf (opcodeOf o) = some o := by
  cases o <;> decide

/-- An opcode that names an operation is the operation's (30_encoding.md R93). -/
theorem opcodeOf_of_operationOf {b : Byte} {o : Operation} (h : operationOf b = some o) : opcodeOf o = b := by
  have := List.find?_some h
  simpa using this

end Sys2Proof.Machine
end

