-- ==== Sys2Proof/Laws/State.lean ====
section
/-!
SUPPORT. One lemma per field per update of the state, each true by `rfl`, and for the composed operations the updates
they are made of. No later proof needs to unfold a record update.
-/

namespace Sys2Proof.Machine

-- The lemmas are elaborated one after another: a build under a memory limit then needs few threads.
set_option Elab.async false

/-! ### `State.setFault` -/

@[simp] theorem State.setFault_crcAcc (s : State) : s.setFault.crcAcc = s.crcAcc := rfl
@[simp] theorem State.setFault_buffer (s : State) : s.setFault.buffer = s.buffer := rfl
@[simp] theorem State.setFault_scanCursor (s : State) : s.setFault.scanCursor = s.scanCursor := rfl
@[simp] theorem State.setFault_phase (s : State) : s.setFault.phase = s.phase := rfl
@[simp] theorem State.setFault_capLen (s : State) : s.setFault.capLen = s.capLen := rfl
@[simp] theorem State.setFault_fault (s : State) : s.setFault.fault = true := rfl
@[simp] theorem State.setFault_maxBuf (s : State) : s.setFault.maxBuf = s.maxBuf := rfl
@[simp] theorem State.setFault_obsEvents (s : State) : s.setFault.obsEvents = s.obsEvents := rfl
@[simp] theorem State.setFault_events (s : State) : s.setFault.events = s.events := rfl
@[simp] theorem State.setFault_inbox (s : State) : s.setFault.inbox = s.inbox := rfl
@[simp] theorem State.setFault_outbox (s : State) : s.setFault.outbox = s.outbox := rfl

/-! ### `State.clearFault` -/

@[simp] theorem State.clearFault_crcAcc (s : State) : s.clearFault.crcAcc = s.crcAcc := rfl
@[simp] theorem State.clearFault_buffer (s : State) : s.clearFault.buffer = s.buffer := rfl
@[simp] theorem State.clearFault_scanCursor (s : State) : s.clearFault.scanCursor = s.scanCursor := rfl
@[simp] theorem State.clearFault_phase (s : State) : s.clearFault.phase = s.phase := rfl
@[simp] theorem State.clearFault_capLen (s : State) : s.clearFault.capLen = s.capLen := rfl
@[simp] theorem State.clearFault_fault (s : State) : s.clearFault.fault = false := rfl
@[simp] theorem State.clearFault_maxBuf (s : State) : s.clearFault.maxBuf = s.maxBuf := rfl
@[simp] theorem State.clearFault_obsEvents (s : State) : s.clearFault.obsEvents = s.obsEvents := rfl
@[simp] theorem State.clearFault_events (s : State) : s.clearFault.events = s.events := rfl
@[simp] theorem State.clearFault_inbox (s : State) : s.clearFault.inbox = s.inbox := rfl
@[simp] theorem State.clearFault_outbox (s : State) : s.clearFault.outbox = s.outbox := rfl

/-! ### `State.appendChunk` -/

@[simp] theorem State.appendChunk_crcAcc (s : State) (c : List Byte) : (s.appendChunk c).crcAcc = s.crcAcc := rfl
@[simp] theorem State.appendChunk_buffer (s : State) (c : List Byte) : (s.appendChunk c).buffer = s.buffer ++ c := rfl
@[simp] theorem State.appendChunk_scanCursor (s : State) (c : List Byte) : (s.appendChunk c).scanCursor = s.scanCursor := rfl
@[simp] theorem State.appendChunk_phase (s : State) (c : List Byte) : (s.appendChunk c).phase = s.phase := rfl
@[simp] theorem State.appendChunk_capLen (s : State) (c : List Byte) : (s.appendChunk c).capLen = s.capLen := rfl
@[simp] theorem State.appendChunk_fault (s : State) (c : List Byte) : (s.appendChunk c).fault = s.fault := rfl
@[simp] theorem State.appendChunk_maxBuf (s : State) (c : List Byte) : (s.appendChunk c).maxBuf = s.maxBuf := rfl
@[simp] theorem State.appendChunk_obsEvents (s : State) (c : List Byte) : (s.appendChunk c).obsEvents = s.obsEvents := rfl
@[simp] theorem State.appendChunk_events (s : State) (c : List Byte) : (s.appendChunk c).events = s.events := rfl
@[simp] theorem State.appendChunk_inbox (s : State) (c : List Byte) : (s.appendChunk c).inbox = s.inbox := rfl
@[simp] theorem State.appendChunk_outbox (s : State) (c : List Byte) : (s.appendChunk c).outbox = s.outbox := rfl

/-! ### `State.dropFront` -/

@[simp] theorem State.dropFront_crcAcc (s : State) (n : Nat) : (s.dropFront n).crcAcc = s.crcAcc := rfl
@[simp] theorem State.dropFront_buffer (s : State) (n : Nat) : (s.dropFront n).buffer = s.buffer.drop n := rfl
@[simp] theorem State.dropFront_scanCursor (s : State) (n : Nat) : (s.dropFront n).scanCursor = s.scanCursor := rfl
@[simp] theorem State.dropFront_phase (s : State) (n : Nat) : (s.dropFront n).phase = s.phase := rfl
@[simp] theorem State.dropFront_capLen (s : State) (n : Nat) : (s.dropFront n).capLen = s.capLen := rfl
@[simp] theorem State.dropFront_fault (s : State) (n : Nat) : (s.dropFront n).fault = s.fault := rfl
@[simp] theorem State.dropFront_maxBuf (s : State) (n : Nat) : (s.dropFront n).maxBuf = s.maxBuf := rfl
@[simp] theorem State.dropFront_obsEvents (s : State) (n : Nat) : (s.dropFront n).obsEvents = s.obsEvents := rfl
@[simp] theorem State.dropFront_events (s : State) (n : Nat) : (s.dropFront n).events = s.events := rfl
@[simp] theorem State.dropFront_inbox (s : State) (n : Nat) : (s.dropFront n).inbox = s.inbox := rfl
@[simp] theorem State.dropFront_outbox (s : State) (n : Nat) : (s.dropFront n).outbox = s.outbox := rfl

/-! ### `State.discardAll` -/

@[simp] theorem State.discardAll_crcAcc (s : State) : s.discardAll.crcAcc = s.crcAcc := rfl
@[simp] theorem State.discardAll_buffer (s : State) : s.discardAll.buffer = [] := rfl
@[simp] theorem State.discardAll_scanCursor (s : State) : s.discardAll.scanCursor = s.scanCursor := rfl
@[simp] theorem State.discardAll_phase (s : State) : s.discardAll.phase = s.phase := rfl
@[simp] theorem State.discardAll_capLen (s : State) : s.discardAll.capLen = s.capLen := rfl
@[simp] theorem State.discardAll_fault (s : State) : s.discardAll.fault = s.fault := rfl
@[simp] theorem State.discardAll_maxBuf (s : State) : s.discardAll.maxBuf = s.maxBuf := rfl
@[simp] theorem State.discardAll_obsEvents (s : State) : s.discardAll.obsEvents = s.obsEvents := rfl
@[simp] theorem State.discardAll_events (s : State) : s.discardAll.events = s.events := rfl
@[simp] theorem State.discardAll_inbox (s : State) : s.discardAll.inbox = s.inbox := rfl
@[simp] theorem State.discardAll_outbox (s : State) : s.discardAll.outbox = s.outbox := rfl

/-! ### `State.enter` -/

@[simp] theorem State.enter_crcAcc (s : State) (p : Phase) : (s.enter p).crcAcc = s.crcAcc := rfl
@[simp] theorem State.enter_buffer (s : State) (p : Phase) : (s.enter p).buffer = s.buffer := rfl
@[simp] theorem State.enter_scanCursor (s : State) (p : Phase) : (s.enter p).scanCursor = s.scanCursor := rfl
@[simp] theorem State.enter_phase (s : State) (p : Phase) : (s.enter p).phase = p := rfl
@[simp] theorem State.enter_capLen (s : State) (p : Phase) : (s.enter p).capLen = s.capLen := rfl
@[simp] theorem State.enter_fault (s : State) (p : Phase) : (s.enter p).fault = s.fault := rfl
@[simp] theorem State.enter_maxBuf (s : State) (p : Phase) : (s.enter p).maxBuf = s.maxBuf := rfl
@[simp] theorem State.enter_obsEvents (s : State) (p : Phase) : (s.enter p).obsEvents = s.obsEvents := rfl
@[simp] theorem State.enter_events (s : State) (p : Phase) : (s.enter p).events = s.events := rfl
@[simp] theorem State.enter_inbox (s : State) (p : Phase) : (s.enter p).inbox = s.inbox := rfl
@[simp] theorem State.enter_outbox (s : State) (p : Phase) : (s.enter p).outbox = s.outbox := rfl

/-! ### `State.capture` -/

@[simp] theorem State.capture_crcAcc (s : State) (l : Word) : (s.capture l).crcAcc = s.crcAcc := rfl
@[simp] theorem State.capture_buffer (s : State) (l : Word) : (s.capture l).buffer = s.buffer := rfl
@[simp] theorem State.capture_scanCursor (s : State) (l : Word) : (s.capture l).scanCursor = s.scanCursor := rfl
@[simp] theorem State.capture_phase (s : State) (l : Word) : (s.capture l).phase = s.phase := rfl
@[simp] theorem State.capture_capLen (s : State) (l : Word) : (s.capture l).capLen = l := rfl
@[simp] theorem State.capture_fault (s : State) (l : Word) : (s.capture l).fault = s.fault := rfl
@[simp] theorem State.capture_maxBuf (s : State) (l : Word) : (s.capture l).maxBuf = s.maxBuf := rfl
@[simp] theorem State.capture_obsEvents (s : State) (l : Word) : (s.capture l).obsEvents = s.obsEvents := rfl
@[simp] theorem State.capture_events (s : State) (l : Word) : (s.capture l).events = s.events := rfl
@[simp] theorem State.capture_inbox (s : State) (l : Word) : (s.capture l).inbox = s.inbox := rfl
@[simp] theorem State.capture_outbox (s : State) (l : Word) : (s.capture l).outbox = s.outbox := rfl

/-! ### `State.respond` -/

@[simp] theorem State.respond_crcAcc (s : State) (r : Response) : (s.respond r).crcAcc = s.crcAcc := rfl
@[simp] theorem State.respond_buffer (s : State) (r : Response) : (s.respond r).buffer = s.buffer := rfl
@[simp] theorem State.respond_scanCursor (s : State) (r : Response) : (s.respond r).scanCursor = s.scanCursor := rfl
@[simp] theorem State.respond_phase (s : State) (r : Response) : (s.respond r).phase = s.phase := rfl
@[simp] theorem State.respond_capLen (s : State) (r : Response) : (s.respond r).capLen = s.capLen := rfl
@[simp] theorem State.respond_fault (s : State) (r : Response) : (s.respond r).fault = s.fault := rfl
@[simp] theorem State.respond_maxBuf (s : State) (r : Response) : (s.respond r).maxBuf = s.maxBuf := rfl
@[simp] theorem State.respond_obsEvents (s : State) (r : Response) : (s.respond r).obsEvents = s.obsEvents := rfl
@[simp] theorem State.respond_events (s : State) (r : Response) : (s.respond r).events = s.events := rfl
@[simp] theorem State.respond_inbox (s : State) (r : Response) : (s.respond r).inbox = s.inbox := rfl
@[simp] theorem State.respond_outbox (s : State) (r : Response) : (s.respond r).outbox = s.outbox ++ [r] := rfl

/-! ### `State.presentInput` -/

@[simp] theorem State.presentInput_crcAcc (s : State) (i : HostInput) : (s.presentInput i).crcAcc = s.crcAcc := rfl
@[simp] theorem State.presentInput_buffer (s : State) (i : HostInput) : (s.presentInput i).buffer = s.buffer := rfl
@[simp] theorem State.presentInput_scanCursor (s : State) (i : HostInput) : (s.presentInput i).scanCursor = s.scanCursor := rfl
@[simp] theorem State.presentInput_phase (s : State) (i : HostInput) : (s.presentInput i).phase = s.phase := rfl
@[simp] theorem State.presentInput_capLen (s : State) (i : HostInput) : (s.presentInput i).capLen = s.capLen := rfl
@[simp] theorem State.presentInput_fault (s : State) (i : HostInput) : (s.presentInput i).fault = s.fault := rfl
@[simp] theorem State.presentInput_maxBuf (s : State) (i : HostInput) : (s.presentInput i).maxBuf = s.maxBuf := rfl
@[simp] theorem State.presentInput_obsEvents (s : State) (i : HostInput) : (s.presentInput i).obsEvents = s.obsEvents := rfl
@[simp] theorem State.presentInput_events (s : State) (i : HostInput) : (s.presentInput i).events = s.events := rfl
@[simp] theorem State.presentInput_inbox (s : State) (i : HostInput) : (s.presentInput i).inbox = i :: s.inbox := rfl
@[simp] theorem State.presentInput_outbox (s : State) (i : HostInput) : (s.presentInput i).outbox = s.outbox := rfl

/-! ### `State.event` -/

@[simp] theorem State.event_crcAcc (s : State) (f : Failure) : (s.event f).crcAcc = s.crcAcc := by
  unfold State.event; split <;> rfl
@[simp] theorem State.event_buffer (s : State) (f : Failure) : (s.event f).buffer = s.buffer := by
  unfold State.event; split <;> rfl
@[simp] theorem State.event_scanCursor (s : State) (f : Failure) : (s.event f).scanCursor = s.scanCursor := by
  unfold State.event; split <;> rfl
@[simp] theorem State.event_phase (s : State) (f : Failure) : (s.event f).phase = s.phase := by
  unfold State.event; split <;> rfl
@[simp] theorem State.event_capLen (s : State) (f : Failure) : (s.event f).capLen = s.capLen := by
  unfold State.event; split <;> rfl
@[simp] theorem State.event_fault (s : State) (f : Failure) : (s.event f).fault = s.fault := by
  unfold State.event; split <;> rfl
@[simp] theorem State.event_maxBuf (s : State) (f : Failure) : (s.event f).maxBuf = s.maxBuf := by
  unfold State.event; split <;> rfl
@[simp] theorem State.event_obsEvents (s : State) (f : Failure) : (s.event f).obsEvents = s.obsEvents := by
  unfold State.event; split <;> rfl
@[simp] theorem State.event_events (s : State) (f : Failure) :
    (s.event f).events = if s.obsEvents then s.events ++ [failureCode f] else s.events := by
  unfold State.event; split <;> rfl
@[simp] theorem State.event_inbox (s : State) (f : Failure) : (s.event f).inbox = s.inbox := by
  unfold State.event; split <;> rfl
@[simp] theorem State.event_outbox (s : State) (f : Failure) : (s.event f).outbox = s.outbox := by
  unfold State.event; split <;> rfl

/-! ### Composed operations -/

theorem State.absorbFailure_eq (s : State) (f : Failure) :
    s.absorbFailure f = (((s.event f).dropFront 1).capture 0#16).enter .scanning := rfl

@[simp] theorem State.absorbFailure_crcAcc (s : State) (f : Failure) :
    (s.absorbFailure f).crcAcc = s.crcAcc := by simp [State.absorbFailure_eq]
@[simp] theorem State.absorbFailure_buffer (s : State) (f : Failure) :
    (s.absorbFailure f).buffer = s.buffer.drop 1 := by simp [State.absorbFailure_eq]
@[simp] theorem State.absorbFailure_scanCursor (s : State) (f : Failure) :
    (s.absorbFailure f).scanCursor = s.scanCursor := by simp [State.absorbFailure_eq]
@[simp] theorem State.absorbFailure_phase (s : State) (f : Failure) :
    (s.absorbFailure f).phase = .scanning := by simp [State.absorbFailure_eq]
@[simp] theorem State.absorbFailure_capLen (s : State) (f : Failure) :
    (s.absorbFailure f).capLen = 0#16 := by simp [State.absorbFailure_eq]
@[simp] theorem State.absorbFailure_fault (s : State) (f : Failure) :
    (s.absorbFailure f).fault = s.fault := by simp [State.absorbFailure_eq]
@[simp] theorem State.absorbFailure_maxBuf (s : State) (f : Failure) :
    (s.absorbFailure f).maxBuf = s.maxBuf := by simp [State.absorbFailure_eq]
@[simp] theorem State.absorbFailure_obsEvents (s : State) (f : Failure) :
    (s.absorbFailure f).obsEvents = s.obsEvents := by simp [State.absorbFailure_eq]
@[simp] theorem State.absorbFailure_events (s : State) (f : Failure) :
    (s.absorbFailure f).events = if s.obsEvents then s.events ++ [failureCode f] else s.events := by simp [State.absorbFailure_eq]
@[simp] theorem State.absorbFailure_inbox (s : State) (f : Failure) :
    (s.absorbFailure f).inbox = s.inbox := by simp [State.absorbFailure_eq]
@[simp] theorem State.absorbFailure_outbox (s : State) (f : Failure) :
    (s.absorbFailure f).outbox = s.outbox := by simp [State.absorbFailure_eq]

theorem State.raiseOverflow_eq (s : State) :
    s.raiseOverflow = { s with fault := true, outbox := s.outbox ++ [.failed .bufferOverflow] } := rfl

theorem State.answerFailure_eq (s : State) (f : Failure) :
    s.answerFailure f = { s with outbox := s.outbox ++ [.failed f] } := rfl

theorem State.answerIllegal_eq (s : State) :
    s.answerIllegal = { s with outbox := s.outbox ++ [.failed .illegalCommand] } := rfl

theorem State.clearDecoder_eq (s : State) :
    s.clearDecoder = { s with buffer := [], phase := .scanning, capLen := 0#16, fault := false } := rfl

/-- The answer of a pure operation is one response, its result or its failure, and nothing else. -/
theorem State.answer_eq (s : State) (result : Except Failure Reply) :
    s.answer result = s.respond (match result with | .ok r => .ok r | .error f => .failed f) := by
  cases result <;> rfl

/-- What `takeInput` can answer: nothing from an empty inbox, else its head and the state with the tail. -/
theorem State.takeInput_nil {s : State} (h : s.inbox = []) : s.takeInput = none := by
  simp [State.takeInput, h]

theorem State.takeInput_cons {s : State} {input : HostInput} {more : List HostInput} (h : s.inbox = input :: more) :
    s.takeInput = some (input, { s with inbox := more }) := by
  simp [State.takeInput, h]

@[simp] theorem State.takeInput_presentInput (s : State) (input : HostInput) :
    (s.presentInput input).takeInput = some (input, s) := rfl

/-- `scan_cursor` is 0 in every state (10_state.md R23). -/
@[simp] theorem State.scanCursor_val (s : State) : s.scanCursor.val = 0 := by
  have := s.scanCursor.isLt; omega

end Sys2Proof.Machine
end

