-- ==== Sys2Proof/Laws/Decoder.lean ====
section
/-!
SUPPORT. What the codec functions and one pass of the drain loop can do, said once; and what a whole run of the loop
leaves alone.
-/

namespace Sys2Proof.Machine

-- The lemmas are elaborated one after another: a build under a memory limit then needs few threads.
set_option Elab.async false

/-! ### The codec at offset 0 -/

/-- `DEC.HDR` at offset 0: one of its three outcomes, with its condition (41_frame_codec.md R154). -/
theorem decodeHeader_cases (b : List Byte) :
    (b.length < 4 ∧ decodeHeader b 0 = .error .incomplete) ∨
    (4 ≤ b.length ∧ byteAt b 0 ≠ 0xAA#8 ∧ decodeHeader b 0 = .error (.invalidMarker 0)) ∨
    (4 ≤ b.length ∧ byteAt b 0 = 0xAA#8 ∧
      decodeHeader b 0 = .ok { version := byteAt b 1, length := u16be b 2 }) := by
  simp only [decodeHeader, avail_zero, Config.hdrBytes, Config.startMarker, Nat.zero_add]
  by_cases h4 : b.length < 4
  · simp [h4]
  · by_cases hm : byteAt b 0 = 0xAA#8
    · simp [h4, hm]; omega
    · simp [h4, hm]; omega

/-- `DEC.FULL` at offset 0: one of its four outcomes, with its condition (41_frame_codec.md R159). -/
theorem decodeFull_cases (b : List Byte) (l : Word) :
    (b.length < 7 + l.toNat ∧ decodeFull b 0 l = .error .incomplete) ∨
    (7 + l.toNat ≤ b.length ∧ checksum (slice b 1 (4 + l.toNat)) ≠ u16be b (4 + l.toNat) ∧
      decodeFull b 0 l = .error .invalidChecksum) ∨
    (7 + l.toNat ≤ b.length ∧ checksum (slice b 1 (4 + l.toNat)) = u16be b (4 + l.toNat) ∧
      byteAt b (6 + l.toNat) ≠ 0x55#8 ∧ decodeFull b 0 l = .error .invalidEndMarker) ∨
    (7 + l.toNat ≤ b.length ∧ checksum (slice b 1 (4 + l.toNat)) = u16be b (4 + l.toNat) ∧
      byteAt b (6 + l.toNat) = 0x55#8 ∧
      decodeFull b 0 l = .ok { version := byteAt b 1, length := l, payload := slice b 4 (4 + l.toNat),
                               checksum := u16be b (4 + l.toNat) }) := by
  simp only [decodeFull, avail_zero, Config.overhead, Config.endMarker, Nat.zero_add]
  by_cases ha : b.length < 7 + l.toNat
  · simp [ha]
  · have ha' : 7 + l.toNat ≤ b.length := by omega
    by_cases hc : checksum (slice b 1 (4 + l.toNat)) = u16be b (4 + l.toNat)
    · by_cases he : byteAt b (6 + l.toNat) = 0x55#8
      · simp [ha, ha', hc, he]
      · simp [ha, ha', hc, he]
    · simp [ha, ha', hc]

/-! ### One pass -/

/-- A pass of `SCANNING` (42_stream_decoder.md R196, R197). -/
theorem drainPass_scanning {s : State} (h : s.phase = .scanning) :
    (0xAA#8 ∉ s.buffer ∧ drainPass s = .stop s.discardAll) ∨
    (∃ noise more, s.buffer = noise ++ 0xAA#8 :: more ∧ 0xAA#8 ∉ noise ∧
      drainPass s = .again { s with buffer := 0xAA#8 :: more, phase := .headerWait } none) := by
  simp only [drainPass, h, scanPass, State.scanCursor_val]
  cases hf : findMarker s.buffer 0 with
  | none => exact .inl ⟨findMarker_eq_none.mp hf, rfl⟩
  | some i =>
    obtain ⟨noise, more, hs, hn, hl⟩ := findMarker_eq_some hf
    refine .inr ⟨noise, more, hs, hn, ?_⟩
    simp [State.dropFront, State.enter, hs, ← hl]

/-- A pass of `HEADER_WAIT` (42_stream_decoder.md R198). -/
theorem drainPass_headerWait {s : State} (h : s.phase = .headerWait) :
    (s.buffer.length < 4 ∧ drainPass s = .stop s) ∨
    (4 ≤ s.buffer.length ∧ byteAt s.buffer 0 ≠ 0xAA#8 ∧
      drainPass s = .again (s.absorbFailure (.invalidMarker 0)) none) ∨
    (4 ≤ s.buffer.length ∧ byteAt s.buffer 0 = 0xAA#8 ∧
      drainPass s = .again { s with capLen := u16be s.buffer 2, phase := .bodyWait } none) := by
  simp only [drainPass, h, headerPass]
  rcases decodeHeader_cases s.buffer with ⟨h4, hd⟩ | ⟨h4, hm, hd⟩ | ⟨h4, hm, hd⟩
  · exact .inl ⟨h4, by rw [hd]⟩
  · exact .inr (.inl ⟨h4, hm, by rw [hd]⟩)
  · exact .inr (.inr ⟨h4, hm, by rw [hd]; rfl⟩)

/-- A pass of `BODY_WAIT` (42_stream_decoder.md R199, R200). -/
theorem drainPass_bodyWait {s : State} (h : s.phase = .bodyWait) :
    (s.buffer.length < 7 + s.capLen.toNat ∧ drainPass s = .stop s) ∨
    (7 + s.capLen.toNat ≤ s.buffer.length ∧
      checksum (slice s.buffer 1 (4 + s.capLen.toNat)) ≠ u16be s.buffer (4 + s.capLen.toNat) ∧
      drainPass s = .again (s.absorbFailure .invalidChecksum) none) ∨
    (7 + s.capLen.toNat ≤ s.buffer.length ∧
      checksum (slice s.buffer 1 (4 + s.capLen.toNat)) = u16be s.buffer (4 + s.capLen.toNat) ∧
      byteAt s.buffer (6 + s.capLen.toNat) ≠ 0x55#8 ∧
      drainPass s = .again (s.absorbFailure .invalidEndMarker) none) ∨
    (7 + s.capLen.toNat ≤ s.buffer.length ∧
      checksum (slice s.buffer 1 (4 + s.capLen.toNat)) = u16be s.buffer (4 + s.capLen.toNat) ∧
      byteAt s.buffer (6 + s.capLen.toNat) = 0x55#8 ∧
      drainPass s = .again { s with buffer := s.buffer.drop (7 + s.capLen.toNat), capLen := 0#16, phase := .scanning }
        (some (slice s.buffer 4 (4 + s.capLen.toNat)))) := by
  simp only [drainPass, h, bodyPass]
  rcases decodeFull_cases s.buffer s.capLen with ⟨ha, hd⟩ | ⟨ha, hc, hd⟩ | ⟨ha, hc, he, hd⟩ | ⟨ha, hc, he, hd⟩
  · exact .inl ⟨ha, by rw [hd]⟩
  · exact .inr (.inl ⟨ha, hc, by rw [hd]⟩)
  · exact .inr (.inr (.inl ⟨ha, hc, he, by rw [hd]⟩))
  · exact .inr (.inr (.inr ⟨ha, hc, he, by rw [hd]; rfl⟩))

/-! ### A run of the loop -/

theorem drainLoop_stop {n : Nat} {s t : State} (h : drainPass s = .stop t) : drainLoop (n + 1) s = (t, []) := by
  simp [drainLoop, h]

theorem drainLoop_again {n : Nat} {s t : State} {e : Option (List Byte)} (h : drainPass s = .again t e) :
    drainLoop (n + 1) s = ((drainLoop n t).1, e.toList ++ (drainLoop n t).2) := by
  simp [drainLoop, h]

/-- The state a pass leads to, whether the loop stops there or goes on. -/
def Pass.state : Pass → State
  | .stop s => s
  | .again s _ => s

/-- A pass writes only `buffer`, `state`, `cap_len` and the event stream, and only takes bytes from the front of the
buffer (20_memory.md R56, R57, R60). -/
theorem drainPass_frame (s : State) : ∃ (n : Nat) (p : Phase) (c : Word) (e : List Byte),
    (drainPass s).state =
      { s with buffer := s.buffer.drop n, phase := p, capLen := c, events := s.events ++ e } := by
  have absorbed (f : Failure) : ∃ (n : Nat) (p : Phase) (c : Word) (e : List Byte), s.absorbFailure f =
      { s with buffer := s.buffer.drop n, phase := p, capLen := c, events := s.events ++ e } := by
    refine ⟨1, .scanning, 0#16, if s.obsEvents then [failureCode f] else [], ?_⟩
    cases h : s.obsEvents <;>
      simp [State.absorbFailure, State.event, State.dropFront, State.capture, State.enter, Config.dropOnFail, h]
  cases h : s.phase with
  | scanning =>
    rcases drainPass_scanning h with ⟨-, hp⟩ | ⟨noise, more, hs, -, hp⟩
    · exact ⟨s.buffer.length, s.phase, s.capLen, [], by simp [hp, Pass.state, State.discardAll]⟩
    · exact ⟨noise.length, .headerWait, s.capLen, [], by simp [hp, Pass.state, hs]⟩
  | headerWait =>
    rcases drainPass_headerWait h with ⟨-, hp⟩ | ⟨-, -, hp⟩ | ⟨-, -, hp⟩
    · exact ⟨0, s.phase, s.capLen, [], by simp [hp, Pass.state]⟩
    · simpa [hp, Pass.state] using absorbed (.invalidMarker 0)
    · exact ⟨0, .bodyWait, u16be s.buffer 2, [], by simp [hp, Pass.state]⟩
  | bodyWait =>
    rcases drainPass_bodyWait h with ⟨-, hp⟩ | ⟨-, -, hp⟩ | ⟨-, -, -, hp⟩ | ⟨-, -, -, hp⟩
    · exact ⟨0, s.phase, s.capLen, [], by simp [hp, Pass.state]⟩
    · simpa [hp, Pass.state] using absorbed .invalidChecksum
    · simpa [hp, Pass.state] using absorbed .invalidEndMarker
    · exact ⟨7 + s.capLen.toNat, .scanning, 0#16, [], by simp [hp, Pass.state]⟩

/-- A run of the loop writes only `buffer`, `state`, `cap_len` and the event stream (10_state.md R20). -/
theorem drainLoop_frame (k : Nat) (s : State) : ∃ (n : Nat) (p : Phase) (c : Word) (e : List Byte),
    (drainLoop k s).1 =
      { s with buffer := s.buffer.drop n, phase := p, capLen := c, events := s.events ++ e } := by
  induction k generalizing s with
  | zero => exact ⟨0, s.phase, s.capLen, [], by simp [drainLoop]⟩
  | succ k ih =>
    obtain ⟨n, p, c, e, hf⟩ := drainPass_frame s
    cases hp : drainPass s with
    | stop t => exact ⟨n, p, c, e, by rw [drainLoop_stop hp]; simpa [hp, Pass.state] using hf⟩
    | again t o =>
      obtain ⟨n', p', c', e', hr⟩ := ih t
      have ht : t = { s with buffer := s.buffer.drop n, phase := p, capLen := c, events := s.events ++ e } := by
        simpa [hp, Pass.state] using hf
      refine ⟨n + n', p', c', e ++ e', ?_⟩
      rw [drainLoop_again hp]
      show (drainLoop k t).1 = _
      rw [hr, ht]
      simp

/-- The three ways a `FEED` can go (42_stream_decoder.md R191). -/
theorem feedChunk_cases (chunk : List Byte) (s : State) :
    (s.fault = true ∧ feedChunk chunk s = s.answerFailure .bufferOverflow) ∨
    (s.fault = false ∧ s.maxBuf < s.buffer.length + chunk.length ∧ feedChunk chunk s = s.raiseOverflow) ∨
    (s.fault = false ∧ s.buffer.length + chunk.length ≤ s.maxBuf ∧
      feedChunk chunk s =
        (drain (s.appendChunk chunk)).1.respond (.ok (.payloads (drain (s.appendChunk chunk)).2))) := by
  unfold feedChunk
  cases hf : s.fault
  · by_cases hb : s.maxBuf < s.buffer.length + chunk.length
    · simp [hb]
    · simp [hb]; omega
  · simp

end Sys2Proof.Machine
end

