-- ==== Sys2Proof/Laws/Memory.lean ====
section
/-!
SUPPORT. Every operation over the buffer keeps its form, `Memory.wf`: at most `MAX_BUF` bytes (20_memory.md R69).
-/

namespace Sys2Proof.Machine

-- The lemmas are elaborated one after another: a build under a memory limit then needs few threads.
set_option Elab.async false

theorem Memory.wf_iff (m : Memory) (maxBuf : Nat) : m.wf maxBuf = true ↔ m.length ≤ maxBuf := by
  simp [Memory.wf]

theorem Memory.wf_nil (maxBuf : Nat) : Memory.wf [] maxBuf = true := by simp [Memory.wf]

/-- `Append`, performed only when the bound allows it (20_memory.md R55). -/
theorem Memory.wf_appendChunk {s : State} {chunk : List Byte} (h : s.buffer.length + chunk.length ≤ s.maxBuf) :
    Memory.wf (s.appendChunk chunk).buffer (s.appendChunk chunk).maxBuf = true := by
  simpa [Memory.wf] using h

theorem Memory.wf_dropFront {s : State} (n : Nat) (h : Memory.wf s.buffer s.maxBuf = true) :
    Memory.wf (s.dropFront n).buffer (s.dropFront n).maxBuf = true := by
  simp only [Memory.wf_iff, State.dropFront_buffer, State.dropFront_maxBuf, List.length_drop] at *
  omega

theorem Memory.wf_discardAll (s : State) : Memory.wf s.discardAll.buffer s.discardAll.maxBuf = true := by
  simp [Memory.wf]

theorem Memory.wf_absorbFailure {s : State} (f : Failure) (h : Memory.wf s.buffer s.maxBuf = true) :
    Memory.wf (s.absorbFailure f).buffer (s.absorbFailure f).maxBuf = true := by
  simp only [Memory.wf_iff, State.absorbFailure_buffer, State.absorbFailure_maxBuf, List.length_drop] at *
  omega

theorem Memory.wf_create (maxBuf : Nat) (obs : Bool) :
    Memory.wf (State.create maxBuf obs).buffer (State.create maxBuf obs).maxBuf = true := by
  simp [Memory.wf, State.create]

theorem Memory.wf_reset : Memory.wf State.reset.buffer State.reset.maxBuf = true := Memory.wf_create _ _

end Sys2Proof.Machine
end

