-- ==== Sys2Proof/Laws/PerInstr.lean ====
section
/-!
SUPPORT. What holds of every instruction as syntax, one lemma per constructor: the encoding of an instruction is a
command packet that begins with the opcode of its operation, or the bytes of a frame part.
-/

namespace Sys2Proof.Laws.EncodingHead

-- The lemmas are elaborated one after another: a build under a memory limit then needs few threads.
set_option Elab.async false

/-- The form of an instruction's encoding: a packet of an assigned opcode with a format's fixed part, a packet of a
reserved opcode, or the bytes of a frame part (30_encoding.md R80, R92, R93, R96). -/
def Statement (i : Instr) : Prop :=
  (∃ o rest, encode i = .command (Machine.opcodeOf o :: rest) ∧
    Machine.fixedBytes (Machine.formatOf o) ≤ (Machine.opcodeOf o :: rest).length) ∨
  (∃ opcode rest, i = .reserved opcode rest ∧ encode i = .command (opcode :: rest)) ∨
  (∃ bytes, encode i = .wire bytes ∧ (bytes.length = 4 ∨ bytes.length = 3))

theorem csBlock (bytes : List Byte) : Statement (.csBlock bytes) :=
  .inl ⟨.csBlock, _, rfl, by simp [dataField, Machine.fixedBytes, Machine.formatOf]⟩

theorem csInit : Statement .csInit := .inl ⟨.csInit, _, rfl, by decide⟩

theorem csUpdate (bytes : List Byte) : Statement (.csUpdate bytes) :=
  .inl ⟨.csUpdate, _, rfl, by simp [dataField, Machine.fixedBytes, Machine.formatOf]⟩

theorem csRead : Statement .csRead := .inl ⟨.csRead, _, rfl, by decide⟩

theorem encode (version : Byte) (payload : List Byte) : Statement (.encode version payload) :=
  .inl ⟨.encode, _, rfl, by simp [dataField, Machine.fixedBytes, Machine.formatOf]⟩

theorem decHdr (offset : Nat) (bytes : List Byte) : Statement (.decHdr offset bytes) :=
  .inl ⟨.decHdr, _, rfl, by simp [dataField, offsetField, Machine.fixedBytes, Machine.formatOf]; omega⟩

theorem decFull (offset : Nat) (length : Word) (bytes : List Byte) : Statement (.decFull offset length bytes) :=
  .inl ⟨.decFull, _, rfl, by simp [dataField, offsetField, Machine.fixedBytes, Machine.formatOf]; omega⟩

theorem decode (bytes : List Byte) : Statement (.decode bytes) :=
  .inl ⟨.decode, _, rfl, by simp [dataField, Machine.fixedBytes, Machine.formatOf]⟩

theorem feed (chunk : List Byte) : Statement (.feed chunk) :=
  .inl ⟨.feed, _, rfl, by simp [dataField, Machine.fixedBytes, Machine.formatOf]⟩

theorem reset : Statement .reset := .inl ⟨.reset, _, rfl, by decide⟩

theorem status : Statement .status := .inl ⟨.status, _, rfl, by decide⟩

theorem reserved (opcode : Byte) (rest : List Byte) : Statement (.reserved opcode rest) :=
  .inr (.inl ⟨opcode, rest, rfl, rfl⟩)

theorem frameHeader (version : Byte) (length : Word) : Statement (.frameHeader version length) :=
  .inr (.inr ⟨_, rfl, .inl rfl⟩)

theorem frameTrailer (checksum : Word) : Statement (.frameTrailer checksum) :=
  .inr (.inr ⟨_, rfl, .inr rfl⟩)

end Sys2Proof.Laws.EncodingHead
end

