-- ==== Sys2Proof/Laws/System.lean ====
section
/-!
SUPPORT. What a system of instances can do, said once: replacing one instance, and one step of one instance.
-/

namespace Sys2Proof.Machine

/-- A system has at least one instance (00_scope.md R11). -/
theorem System.nInst_pos (sys : System) : 1 ≤ sys.nInst := by simp [System.nInst, System.instances]

@[simp] theorem System.instances_setInstance (sys : System) (k : Nat) (t : State) :
    (sys.setInstance k t).instances = sys.instances.set k t := by cases k <;> rfl

@[simp] theorem System.nInst_setInstance (sys : System) (k : Nat) (t : State) :
    (sys.setInstance k t).nInst = sys.nInst := by simp [System.nInst]

@[simp] theorem System.instances_create (parameters : Nat × Bool) (more : List (Nat × Bool)) :
    (System.create parameters more).instances = (parameters :: more).map fun p => State.create p.1 p.2 := rfl

/-- A system's step is a step of the instance named, or nothing where the index names none. -/
theorem System.stepAt_cases {sys sys' : System} {k : Nat} (h : sys.stepAt k = .next sys') :
    (sys.instances[k]? = none ∧ sys' = sys) ∨
    ∃ s t, sys.instances[k]? = some s ∧ step s = .next t ∧ sys' = sys.setInstance k t := by
  unfold System.stepAt at h
  split at h
  · exact .inl ⟨by assumption, (Host.Outcome.next.inj h).symm⟩
  · rename_i s hs
    split at h <;> cases h
    exact .inr ⟨s, _, hs, by assumption, rfl⟩

end Sys2Proof.Machine
end

