-- ==== Sys2Proof/Tests/Slice0.lean ====
section
/-!
SUPPORT. Tests of the model's own: ill-formed terms, words written out from the encoding tables, single steps with the
results that 95_test_vectors.md gives, and for each obligation with hypotheses a state and operands that meet them.
-/

namespace Sys2Proof.Tests

-- The tests are elaborated one after another: a build under a memory limit then needs few threads.
set_option Elab.async false

open Machine

/-! ## Well-formedness: each check refuses an ill-formed term (30_encoding.md R92, R93) -/

/-- A run of zero bytes. -/
def zeros (n : Nat) : List Byte := List.replicate n 0#8

theorem zeros_length (n : Nat) : (zeros n).length = n := List.length_replicate

theorem zeros_no_marker (n : Nat) : 0xAA#8 ∉ zeros n := fun h => absurd (List.eq_of_mem_replicate h) (by decide)

theorem test_wf_refuses_long_csBlock : (Instr.csBlock (zeros 4294967296)).wellFormed = false := by
  simp only [Instr.wellFormed, dataFits, zeros_length, packetFieldBound]; decide

theorem test_wf_refuses_long_csUpdate : (Instr.csUpdate (zeros 4294967296)).wellFormed = false := by
  simp only [Instr.wellFormed, dataFits, zeros_length, packetFieldBound]; decide

theorem test_wf_refuses_long_encode : (Instr.encode 0#8 (zeros 4294967296)).wellFormed = false := by
  simp only [Instr.wellFormed, dataFits, zeros_length, packetFieldBound]; decide

theorem test_wf_refuses_long_decHdr : (Instr.decHdr 0 (zeros 4294967296)).wellFormed = false := by
  simp only [Instr.wellFormed, dataFits, zeros_length, packetFieldBound]; decide

theorem test_wf_refuses_offset_decHdr : (Instr.decHdr 4294967296 []).wellFormed = false := by decide

theorem test_wf_refuses_long_decFull : (Instr.decFull 0 0#16 (zeros 4294967296)).wellFormed = false := by
  simp only [Instr.wellFormed, dataFits, zeros_length, packetFieldBound]; decide

theorem test_wf_refuses_offset_decFull : (Instr.decFull 4294967296 0#16 []).wellFormed = false := by decide

theorem test_wf_refuses_long_decode : (Instr.decode (zeros 4294967296)).wellFormed = false := by
  simp only [Instr.wellFormed, dataFits, zeros_length, packetFieldBound]; decide

theorem test_wf_refuses_long_feed : (Instr.feed (zeros 4294967296)).wellFormed = false := by
  simp only [Instr.wellFormed, dataFits, zeros_length, packetFieldBound]; decide

theorem test_wf_refuses_assigned_reserved : (Instr.reserved 0x20#8 []).wellFormed = false := by decide

theorem test_wf_admits_reserved : (Instr.reserved 0x05#8 [0x00#8]).wellFormed = true := by decide

/-! ## Decoding: words written out from the encoding tables (30_encoding.md R80, R92, R93; V8) -/

theorem test_decode_csBlock :
    decode (.command [0x01#8, 0#8, 0#8, 0#8, 2#8, 0x31#8, 0x32#8]) = .ok (.csBlock [0x31#8, 0x32#8]) := by decide

theorem test_decode_csInit : decode (.command [0x02#8]) = .ok .csInit := by decide

theorem test_decode_csUpdate :
    decode (.command [0x03#8, 0#8, 0#8, 0#8, 1#8, 0x31#8]) = .ok (.csUpdate [0x31#8]) := by decide

theorem test_decode_csRead : decode (.command [0x04#8]) = .ok .csRead := by decide

theorem test_decode_encode :
    decode (.command [0x10#8, 0x01#8, 0#8, 0#8, 0#8, 2#8, 0x48#8, 0x65#8]) =
      .ok (.encode 0x01#8 [0x48#8, 0x65#8]) := by decide

theorem test_decode_decHdr :
    decode (.command [0x11#8, 1#8, 2#8, 3#8, 4#8, 0#8, 0#8, 0#8, 1#8, 0xAA#8]) =
      .ok (.decHdr 16909060 [0xAA#8]) := by decide

theorem test_decode_decFull :
    decode (.command [0x12#8, 0#8, 0#8, 0#8, 2#8, 0x12#8, 0x34#8, 0#8, 0#8, 0#8, 1#8, 0x77#8]) =
      .ok (.decFull 2 0x1234#16 [0x77#8]) := by decide

theorem test_decode_decode :
    decode (.command [0x13#8, 0#8, 0#8, 0#8, 1#8, 0xBB#8]) = .ok (.decode [0xBB#8]) := by decide

theorem test_decode_feed :
    decode (.command [0x20#8, 0#8, 0#8, 0#8, 1#8, 0xAA#8]) = .ok (.feed [0xAA#8]) := by decide

theorem test_decode_reset : decode (.command [0x21#8]) = .ok .reset := by decide

theorem test_decode_status : decode (.command [0x22#8]) = .ok .status := by decide

theorem test_decode_reserved : decode (.command [0xFF#8, 0x01#8]) = .ok (.reserved 0xFF#8 [0x01#8]) := by decide

theorem test_decode_frameHeader :
    decode (.wire [0xAA#8, 0x09#8, 0x12#8, 0x34#8]) = .ok (.frameHeader 0x09#8 0x1234#16) := by decide

theorem test_decode_frameTrailer :
    decode (.wire [0x12#8, 0x34#8, 0x55#8]) = .ok (.frameTrailer 0x1234#16) := by decide

theorem test_decode_rejects_empty : decode (.command []) = .error .emptyPacket := by decide

theorem test_decode_rejects_short : decode (.command [0x20#8, 0#8, 0#8]) = .error .tooShort := by decide

theorem test_decode_rejects_wrong_dlen :
    decode (.command [0x20#8, 0#8, 0#8, 0#8, 2#8, 0xAA#8]) = .error .dlenMismatch := by decide

theorem test_decode_rejects_trailing : decode (.command [0x21#8, 0#8]) = .error .trailingBytes := by decide

theorem test_table_words :
    decodeTableWord 8 0x12 = some (.decFull 0 0#16 []) ∧ decodeTableWord 8 0x22 = some .status ∧
    decodeTableWord 32 0xAA010005 = some (.frameHeader 0x01#8 0x0005#16) ∧
    decodeTableWord 24 0xFE3A55 = some (.frameTrailer 0xFE3A#16) := by decide

/-! ## Single steps, with the responses of 95_test_vectors.md -/

/-- The response packet a step returns. -/
def responseOf (o : Host.Outcome State Fault Refusal) : Option (List Byte) :=
  match o with
  | .next s => s.outbox.getLast?.map Response.packet
  | .fault _ => none
  | .refused _ => none

/-- `state`, `cap_len`, `|buffer|` and `fault` after a step. -/
def decoderOf (o : Host.Outcome State Fault Refusal) : Option (Phase × Word × Nat × Bool) :=
  match o with
  | .next s => some (s.phase, s.capLen, s.buffer.length, s.fault)
  | .fault _ => none
  | .refused _ => none

/-- `crc_acc` after a step. -/
def accumulatorOf (o : Host.Outcome State Fault Refusal) : Option Word :=
  match o with
  | .next s => some s.crcAcc
  | .fault _ => none
  | .refused _ => none

/-- The event stream after a step. -/
def eventsOf (o : Host.Outcome State Fault Refusal) : Option (List Byte) :=
  match o with
  | .next s => some s.events
  | .fault _ => none
  | .refused _ => none

/-- The step that takes this input on this state. -/
def stepOn (s : State) (input : HostInput) : Host.Outcome State Fault Refusal := step (s.presentInput input)

/-- An instance with `MAX_BUF` 16 that holds the first 8 bytes of the `Hello` frame (S23, P4). -/
def waiting : State :=
  { State.create 16 true with buffer := helloFrame.take 8, phase := .bodyWait, capLen := 0x0005#16 }

/-- V1 row 13. -/
theorem test_csBlock_check_value :
    responseOf (stepOn .reset (encode (.csBlock
      [0x31#8, 0x32#8, 0x33#8, 0x34#8, 0x35#8, 0x36#8, 0x37#8, 0x38#8, 0x39#8]))) =
      some [0x00#8, 0x29#8, 0xB1#8] := by decide +kernel

/-- V1 row 7: a checksum of zero. -/
theorem test_csBlock_zero :
    responseOf (stepOn .reset (encode (.csBlock [0xFF#8, 0xFF#8]))) = some [0x00#8, 0x00#8, 0x00#8] := by
  decide +kernel

/-- V3. -/
theorem test_csInit :
    accumulatorOf (stepOn { State.reset with crcAcc := 0x29B1#16 } (encode .csInit)) = some 0xFFFF#16 := by
  decide +kernel

/-- R132. -/
theorem test_csUpdate :
    accumulatorOf (stepOn { State.reset with crcAcc := 0xAB09#16 }
      (encode (.csUpdate [0x48#8, 0x65#8, 0x6C#8, 0x6C#8, 0x6F#8]))) = some 0xFE3A#16 := by decide +kernel

/-- R133. -/
theorem test_csRead :
    responseOf (stepOn { State.reset with crcAcc := 0xFE3A#16 } (.command [0x04#8])) =
      some [0x00#8, 0xFE#8, 0x3A#8] := by decide +kernel

/-- V4 row 4: marker values as data. -/
theorem test_encode_markers :
    responseOf (stepOn .reset (encode (.encode 0xAA#8 [0xAA#8, 0x55#8]))) =
      some [0x00#8, 0#8, 0#8, 0#8, 9#8, 0xAA#8, 0xAA#8, 0x00#8, 0x02#8, 0xAA#8, 0x55#8, 0xEB#8, 0x43#8, 0x55#8] := by
  decide +kernel

/-- V5 row 9. -/
theorem test_decHdr_marker :
    responseOf (stepOn .reset (encode (.decHdr 1 [0#8, 0#8, 0xAA#8, 0xFF#8, 0xFF#8, 0xFF#8]))) =
      some [0x02#8, 0#8, 0#8, 0#8, 1#8] := by decide +kernel

/-- V5 row 7. -/
theorem test_decHdr_ok :
    responseOf (stepOn .reset (encode (.decHdr 2 [0#8, 0#8, 0xAA#8, 0xFF#8, 0xFF#8, 0xFF#8]))) =
      some [0x00#8, 0xFF#8, 0xFF#8, 0xFF#8] := by decide +kernel

/-- P5 row 4. -/
theorem test_decFull_ok :
    responseOf (stepOn .reset (encode (.decFull 2 0x0005#16 (0#8 :: 0#8 :: helloFrame)))) =
      some [0x00#8, 0x01#8, 0x00#8, 0x05#8, 0x48#8, 0x65#8, 0x6C#8, 0x6C#8, 0x6F#8, 0xFE#8, 0x3A#8] := by
  decide +kernel

/-- V6 row 8: a length that is not the frame's. -/
theorem test_decFull_foreign_length :
    responseOf (stepOn .reset (encode (.decFull 0 0x0004#16 helloFrame))) = some [0x03#8] := by decide +kernel

/-- V7 row 2. -/
theorem test_decode_marker :
    responseOf (stepOn .reset (encode (.decode (helloFrame.set 0 0xBB#8)))) = some [0x02#8, 0#8, 0#8, 0#8, 0#8] := by
  decide +kernel

/-- V7 row 6. -/
theorem test_decode_end_marker :
    responseOf (stepOn .reset (encode (.decode (helloFrame.set 11 0x56#8)))) = some [0x04#8] := by decide +kernel

/-- S11: a valid frame inside a corrupted one is found. -/
theorem test_feed_frame_inside_corrupted_frame :
    responseOf (stepOn .reset (encode (.feed ([0xAA#8, 0x03#8, 0x00#8, 0x0C#8] ++ helloFrame ++
      [0x5B#8, 0x0D#8, 0x55#8])))) =
      some [0x00#8, 0#8, 0#8, 0#8, 1#8, 0x00#8, 0x05#8, 0x48#8, 0x65#8, 0x6C#8, 0x6C#8, 0x6F#8] := by decide +kernel

/-- S23: overflow in `BODY_WAIT`, state frozen. -/
theorem test_feed_overflow :
    decoderOf (stepOn waiting (encode (.feed (helloFrame.drop 8 ++ [0#8, 0#8, 0#8, 0#8, 0#8])))) =
      some (.bodyWait, 0x0005#16, 8, true) := by decide +kernel

/-- P4 row 6. -/
theorem test_reset :
    decoderOf (stepOn { waiting with fault := true } (.command [0x21#8])) = some (.scanning, 0#16, 0, false) := by
  decide +kernel

/-- P4 row 3. -/
theorem test_status :
    responseOf (stepOn { waiting with fault := true } (.command [0x22#8])) =
      some [0x00#8, 0x02#8, 0x01#8, 0x00#8, 0x05#8, 0#8, 0#8, 0#8, 8#8, 0xFF#8, 0xFF#8] := by decide +kernel

/-- V8. -/
theorem test_reserved : responseOf (stepOn .reset (.command [0x05#8])) = some [0x07#8] := by decide +kernel

/-- P5 row 8: a malformed packet appends nothing. -/
theorem test_malformed :
    decoderOf (stepOn .reset (.command [0x20#8, 0#8, 0#8, 0#8, 2#8, 0xAA#8])) = some (.scanning, 0#16, 0, false) := by
  decide +kernel

/-- S2, after byte 4. -/
theorem test_frameHeader :
    decoderOf (step (State.reset.withFetchWord 32 0xAA010005)) = some (.bodyWait, 0x0005#16, 4, false) := by
  decide +kernel

/-- S2, byte 12, for the last three bytes together. -/
theorem test_frameTrailer :
    responseOf (stepOn { waiting with buffer := helloFrame.take 9 } (.wire [0xFE#8, 0x3A#8, 0x55#8])) =
      some [0x00#8, 0#8, 0#8, 0#8, 1#8, 0x00#8, 0x05#8, 0x48#8, 0x65#8, 0x6C#8, 0x6C#8, 0x6F#8] := by decide +kernel

/-- S6: one event, `InvalidEndMarker`. -/
theorem test_feed_event :
    eventsOf (stepOn .reset (encode (.feed (helloFrame.set 11 0x56#8 ++ helloFrame)))) = some [0x04#8] := by
  decide +kernel

/-! ## Hypotheses met -/

theorem witness_packet_operands :
    (zeros 4294967295).length < 4294967296 ∧ 4294967295 < 4294967296 := by rw [zeros_length]; decide

theorem witness_StreamedUpdatesEqualTheBlock : Instr.csInit ∉ [Instr.csUpdate [0x01#8], .feed [0xAA#8], .reset] := by
  decide

theorem witness_NoOtherOperationTouchesTheAccumulator : usesAccumulator (.feed [0xAA#8]) = false := by decide

theorem witness_EncodeAnswersTheFrame :
    (zeros 65535).length ≤ 65535 ∧ 65535 < (zeros 65536).length := by
  rw [zeros_length, zeros_length]; decide

theorem witness_EncodedFrameIsValid : (zeros 65535).length ≤ 65535 := by rw [zeros_length]

theorem witness_DecodeOfEncodeGivesTheFrameBack :
    [0x48#8].length ≤ 65535 ∧ (frameOf 0x01#8 [0x48#8]).length ≤ 8 := by decide

theorem witness_DecFullIgnoresBytesBeyondTheSpan : 0 + 7 + (0x0005#16).toNat ≤ helloFrame.length := by decide

/-- The largest payload, and a span whose length bytes are not its length: answered OK. -/
theorem witness_DecFullChecksNeitherMarkerNorLengthBytes :
    (zeros 65535).length ≤ 65535 ∧ [0x48#8].length ≤ 65535 ∧
    (decodeFull ([0x00#8, 0xBB#8, 0x01#8, 0x12#8, 0x34#8, 0x48#8] ++
      be16 (checksum [0x01#8, 0x12#8, 0x34#8, 0x48#8]) ++ [0x55#8]) 1 0x0001#16).map Frame.payload =
        .ok [0x48#8] := by
  rw [zeros_length]; decide +kernel

theorem witness_PureOperationsChangeNoState : writesNoState (.decode helloFrame) = true := by decide

theorem witness_FeedIsRefusedWhileFaulted : { waiting with fault := true }.fault = true := by decide

/-- 8 + 9 = 17 bytes are one too many for a bound of 16 (S23). -/
theorem witness_FeedPastTheBoundOnlySetsFault :
    waiting.fault = false ∧ waiting.maxBuf < waiting.buffer.length + (zeros 9).length := by decide

/-- 8 + 8 = 16 bytes are exactly the bound. -/
theorem witness_FeedDrainsAsTheTableSays :
    waiting.fault = false ∧ waiting.buffer.length + (zeros 8).length ≤ waiting.maxBuf ∧
    (waiting.phase ≠ .bodyWait → waiting.capLen = 0#16) := by decide

/-- The invariant in a state that waits for a body. -/
theorem witness_inv_waiting : Machine.Inv waiting := by
  unfold Machine.Inv PhaseInv EventsInv; decide

/-- The invariant in a state that waits for a header. -/
theorem witness_inv_header : Machine.Inv { State.create 16 true with buffer := [0xAA#8, 0x01#8, 0x00#8], phase := .headerWait } := by
  unfold Machine.Inv PhaseInv EventsInv; decide

theorem witness_EmptyFeedChangesNothing : Machine.Inv waiting ∧ waiting.fault = false := ⟨witness_inv_waiting, rfl⟩

theorem witness_ChunkingDoesNotMatter :
    Machine.Inv waiting ∧ waiting.fault = false ∧
    waiting.buffer.length + [[0x6F#8, 0xFE#8], [0x3A#8, 0x55#8]].flatten.length ≤ waiting.maxBuf :=
  ⟨witness_inv_waiting, rfl, by decide⟩

/-- With no chunk at all the state stays as it was created, without a fault. -/
theorem witness_FeedsEmitTheParseOfTheStream :
    runOps (([] : List (List Byte)).map .feed) (State.create 16 true) = .next (State.create 16 true) ∧
    (State.create 16 true).fault = false := ⟨rfl, rfl⟩

/-- An instance in reset state whose bound is the frame, and prefixes that end in each state: the empty one; 1 and 3
bytes; 4 bytes and all but one. -/
theorem witness_TruncationNeverEmits :
    [0x48#8].length ≤ 65535 ∧ (∀ k ∈ [0, 1, 3, 4, 7], k < 7 + [0x48#8].length) ∧
    (State.create 8 true).phase = .scanning ∧ (State.create 8 true).buffer = [] ∧ (State.create 8 true).capLen = 0#16 ∧
    (State.create 8 true).fault = false ∧ 7 + [0x48#8].length ≤ (State.create 8 true).maxBuf := by decide

theorem witness_FramesAmongMarkerlessNoiseAreEmitted :
    (∀ g ∈ [([0x12#8], (0x01#8 : Byte), [0xAA#8])], 0xAA#8 ∉ g.1 ∧ g.2.2.length ≤ 65535) ∧ 0xAA#8 ∉ [0x55#8] ∧
    State.reset.phase = .scanning ∧ State.reset.buffer = [] ∧ State.reset.capLen = 0#16 ∧
    State.reset.fault = false ∧
    (([([0x12#8], (0x01#8 : Byte), [0xAA#8])].flatMap fun g => g.1 ++ frameOf g.2.1 g.2.2) ++ [0x55#8]).length ≤
      State.reset.maxBuf := by decide +kernel

/-- A frame with a wrong checksum (S5) and one with a wrong end marker (S6). -/
theorem witness_CorruptedFrameCostsOneEvent :
    (0xAA#8 ∉ (helloFrame.set 10 0x3B#8).tail ∧
      (helloFrame.set 10 0x3B#8).tail.length = 6 + lengthAt (0xAA#8 :: (helloFrame.set 10 0x3B#8).tail) 0 ∧
      decodeFull (0xAA#8 :: (helloFrame.set 10 0x3B#8).tail) 0
        (u16be (0xAA#8 :: (helloFrame.set 10 0x3B#8).tail) 2) = .error .invalidChecksum) ∧
    (0xAA#8 ∉ (helloFrame.set 11 0x56#8).tail ∧
      (helloFrame.set 11 0x56#8).tail.length = 6 + lengthAt (0xAA#8 :: (helloFrame.set 11 0x56#8).tail) 0 ∧
      decodeFull (0xAA#8 :: (helloFrame.set 11 0x56#8).tail) 0
        (u16be (0xAA#8 :: (helloFrame.set 11 0x56#8).tail) 2) = .error .invalidEndMarker) ∧
    [0x48#8].length ≤ 65535 ∧ State.reset.phase = .scanning ∧ State.reset.buffer = [] ∧
    State.reset.capLen = 0#16 ∧ State.reset.fault = false ∧
    (helloFrame.set 10 0x3B#8).tail.length + 8 + [0x48#8].length ≤ State.reset.maxBuf := by decide +kernel

/-- Both sides of the bound: 1 048 576 bytes and one more (S19). -/
theorem witness_FloodOverflowsOnlyInOneLargeChunk :
    0xAA#8 ∉ zeros 1048576 ∧ (zeros 1048576).length ≤ 1048576 ∧
    0xAA#8 ∉ zeros 1048577 ∧ ¬ (zeros 1048577).length ≤ 1048576 ∧
    State.reset.phase = .scanning ∧ State.reset.buffer = [] ∧ State.reset.capLen = 0#16 ∧
    State.reset.fault = false ∧ State.reset.maxBuf = 1048576 := by
  rw [zeros_length, zeros_length]
  exact ⟨zeros_no_marker _, by decide, zeros_no_marker _, by decide, by decide⟩

theorem witness_SmallEnoughChunkIsAccepted :
    Machine.Inv (State.create 65542 true) ∧ (State.create 65542 true).fault = false ∧
    [0xAA#8].length + 65541 ≤ (State.create 65542 true).maxBuf := by
  unfold Machine.Inv PhaseInv EventsInv; decide

theorem witness_NoFrameLargerThanTheBoundIsEmitted : Machine.Inv waiting := witness_inv_waiting

theorem witness_FaultFreezesTheDecoder :
    Instr.feed [0xAA#8] ≠ .reset ∧ { waiting with fault := true }.fault = true ∧
    (Sys2Proof.Machine.feedChunk (zeros 9) waiting).fault = true := by decide

theorem witness_FrameHeaderOpensACandidate :
    (State.create 4 true).phase = .scanning ∧ (State.create 4 true).buffer = [] ∧ (State.create 4 true).fault = false ∧
    4 ≤ (State.create 4 true).maxBuf := by decide

theorem witness_FrameTrailerCompletesACandidate :
    ∃ (v : Byte) (p : List Byte) (s : State), p.length ≤ 65535 ∧ s.phase = .bodyWait ∧
      s.capLen = BitVec.ofNat 16 p.length ∧ s.fault = false ∧ 7 + p.length ≤ s.maxBuf ∧
      s.buffer = 0xAA#8 :: v :: be16 (BitVec.ofNat 16 p.length) ++ p :=
  ⟨0x01#8, [0x48#8, 0x65#8, 0x6C#8, 0x6C#8, 0x6F#8], { waiting with buffer := helloFrame.take 9 }, by decide⟩

theorem witness_DecodeOfEncodeIsTheInstruction :
    (Instr.decFull 4294967295 0xFFFF#16 [0xAA#8]).WellFormed ∧ (Instr.reserved 0x23#8 []).WellFormed := by decide

theorem witness_EncodeOfDecodeIsThePacket : decode (.command [0x22#8]) = .ok .status := by decide

/-- A chunk of a wire segment, and a segment that is one byte too long. -/
theorem witness_DecodedOperandsFitAPacket :
    decode (.wire [0x01#8]) = .ok (.feed [0x01#8]) ∧
    (State.reset.presentInput (.wire (zeros 4294967296))).inbox = .wire (zeros 4294967296) :: [] ∧
    4294967295 < (zeros 4294967296).length := ⟨by decide, rfl, by rw [zeros_length]; decide⟩

/-- A malformed packet and one that is not. -/
theorem witness_MalformedPacketsAreIllegalCommands :
    (State.reset.presentInput (.command [])).inbox = .command [] :: [] ∧ Malformed [] ∧
    (State.reset.presentInput (.command [0x22#8])).inbox = .command [0x22#8] :: [] ∧ ¬ Malformed [0x22#8] := by
  refine ⟨rfl, .inl rfl, rfl, ?_⟩
  rintro (h | h | ⟨o, ho, h⟩)
  · exact absurd h (by decide)
  · exact absurd h (by decide)
  · have hs : o = .status := by
      have h22 : operationOf (byteAt [0x22#8] 0) = some .status := by decide
      rw [h22] at ho; exact (Option.some.inj ho).symm
    subst hs
    revert h; decide

theorem witness_StepRunsTheDecodedInstruction :
    (State.reset.presentInput (.command [0x22#8])).inbox = .command [0x22#8] :: [] ∧
    decode (.command [0x22#8]) = .ok .status := by decide

theorem witness_StepWithoutInputChangesNothing : State.reset.inbox = [] := by decide

theorem witness_EveryInputGetsExactlyOneResponse :
    (State.reset.presentInput (.command [0x21#8])).inbox = .command [0x21#8] :: [] := by decide

theorem witness_StepKeepsTheInvariant : Machine.Inv (waiting.presentInput (encode (.feed helloFrame))) := by
  unfold Machine.Inv PhaseInv EventsInv; decide

theorem witness_BufferStaysWithinItsBounds : Machine.Inv waiting := witness_inv_waiting

theorem witness_InstancesDoNotDisturbEachOther :
    (System.create (16, true) [(1048576, false)]).instances[0]? = some (State.create 16 true) ∧
    (System.create (16, true) [(1048576, false)]).instances[1]? = some (State.create 1048576 false) := by decide

end Sys2Proof.Tests
end

section
/-!
10_state.md R41: while `fault` is 1 the decoder's values stand still. Of the operations other than `RESET`, those that
feed no bytes write nothing of the decoder, and a `FEED` either sets or keeps `fault` and writes nothing else, or
leaves `fault` at 0.
-/

namespace Sys2Proof.Machine

/-! ### What an instruction does, by the bytes it feeds -/

/-- A run of the drain loop neither sets nor clears `fault` (60_exceptions.md R250). -/
@[simp] theorem drain_fault (s : State) : (drain s).1.fault = s.fault := by
  obtain ⟨n, p, c, e, hrun⟩ := drainLoop_frame (3 * (s.buffer.length + 1)) s
  simp [drain, hrun]

/-- An instruction that feeds bytes runs as the `FEED` of those bytes (42_stream_decoder.md R191; log 6). -/
theorem exec_of_fedBytes_eq_some {i : Instr} {chunk : List Byte} (h : fedBytes i = some chunk) (s : State) :
    exec i s = .next (feedChunk chunk s) := by
  cases i with
  | feed _ | frameHeader _ _ | frameTrailer _ => cases h; rfl
  | _ => cases h

/-- An instruction that feeds no bytes and is not `RESET` writes at most `crc_acc`, beside its one response
(10_state.md R20, column "written by"). -/
theorem exec_of_fedBytes_eq_none {i : Instr} (h : fedBytes i = none) (hreset : i ≠ .reset) (s : State) :
    ∃ crc r, exec i s = .next ({ s with crcAcc := crc }.respond r) := by
  have pureAnswer (result : Except Failure Reply) :
      ∃ crc r, Host.Outcome.next (s.answer result) = (.next ({ s with crcAcc := crc }.respond r) :
        Host.Outcome State Fault Refusal) := ⟨s.crcAcc, _, congrArg _ (s.answer_eq result)⟩
  cases i with
  | csInit => exact ⟨Config.crcInit, .ok .nothing, rfl⟩
  | csUpdate bytes => exact ⟨crcFold s.crcAcc bytes, .ok .nothing, rfl⟩
  | csBlock _ | csRead | status | reserved _ _ => exact ⟨s.crcAcc, _, rfl⟩
  | encode _ _ | decHdr _ _ | decFull _ _ _ | decode _ => exact pureAnswer _
  | feed _ | frameHeader _ _ | frameTrailer _ => cases h
  | reset => exact absurd rfl hreset

/-! ### The frozen decoder -/

/-- What R41 asks of an operation that leads from `s` to `t`: `fault` is not cleared, and if it is 1 in `t`, the
decoder's values are those of `s`. -/
def FrozenByFault (s t : State) : Prop :=
  (s.fault = true → t.fault = true) ∧
    (t.fault = true → t.buffer = s.buffer ∧ t.phase = s.phase ∧ t.capLen = s.capLen)

/-- A `FEED` that is refused or overflows writes no value of the decoder but `fault`; one that drains ends with
`fault` 0. -/
theorem feedChunk_frozenByFault (chunk : List Byte) (s : State) : FrozenByFault s (feedChunk chunk s) := by
  rcases feedChunk_cases chunk s with ⟨hfault, hfeed⟩ | ⟨-, -, hfeed⟩ | ⟨hfault, -, hfeed⟩
  · simp [FrozenByFault, hfeed, State.answerFailure_eq, hfault]
  · simp [FrozenByFault, hfeed, State.raiseOverflow_eq]
  · simp [FrozenByFault, hfeed, hfault]

theorem exec_frozenByFault {i : Instr} (hreset : i ≠ .reset) (s : State) :
    ∃ t, exec i s = .next t ∧ FrozenByFault s t := by
  cases hfed : fedBytes i with
  | some chunk => exact ⟨_, exec_of_fedBytes_eq_some hfed s, feedChunk_frozenByFault chunk s⟩
  | none =>
    obtain ⟨crc, r, hexec⟩ := exec_of_fedBytes_eq_none hfed hreset s
    exact ⟨_, hexec, by simp [FrozenByFault]⟩

/-- Settles O37: each instruction but `RESET` either feeds bytes or writes nothing of the decoder. -/
theorem faultFreezesTheDecoder : Obligations.FaultFreezesTheDecoder :=
  fun _ s hreset => exec_frozenByFault hreset s

end Sys2Proof.Machine
end

section
/-!
20_memory.md R51: the fields are big-endian. R66: instances do not disturb each other. Every step completes; a step of
one instance replaces that instance alone; so, along any schedule, an instance makes as many steps of its own as the
schedule names it.
-/

namespace Sys2Proof.Machine

/-! ### Fields -/

/-- Settles O52: a field's value is fixed by its bytes, most significant first, and extracting them gives them back. -/
theorem fieldsAreBigEndian : Obligations.FieldsAreBigEndian :=
  ⟨fun v => ⟨rfl, wordOf_extract v⟩, fun s i => wordOf_toNat (byteAt s i) (byteAt s (i + 1)), by decide,
    fun _ => rfl, fun b3 b2 b1 b0 => ⟨dwordOf_toNat b3 b2 b1 b0, be32_dwordOf b3 b2 b1 b0⟩⟩

/-! ### Every step completes -/

theorem exec_completes (i : Instr) (s : State) : ∃ t, exec i s = .next t := by
  cases hfed : fedBytes i with
  | some chunk => exact ⟨_, exec_of_fedBytes_eq_some hfed s⟩
  | none =>
    by_cases hreset : i = .reset
    · subst hreset
      exact ⟨_, rfl⟩
    · obtain ⟨_, _, hexec⟩ := exec_of_fedBytes_eq_none hfed hreset s
      exact ⟨_, hexec⟩

/-- With no input nothing happens; a decoded operation completes; any other input is answered (30_encoding.md R96). -/
theorem step_completes (s : State) : ∃ t, step s = .next t := by
  unfold step
  split
  · exact ⟨s, rfl⟩
  · split
    · exact exec_completes _ _
    · exact ⟨_, rfl⟩

/-! ### One instance on its own -/

theorem core_run_zero (s : State) : Host.Core.run Sys2Proof.core 0 s = .next s := rfl

theorem core_run_succ {s t : State} (h : step s = .next t) (n : Nat) :
    Host.Core.run Sys2Proof.core (n + 1) s = Host.Core.run Sys2Proof.core n t := by
  have hstep : Sys2Proof.core.step s = .next t := h
  simp only [Host.Core.run, hstep]

/-! ### One instance in a system -/

theorem System.stepAt_of_step {sys : System} {k : Nat} {s t : State} (hs : sys.instances[k]? = some s)
    (ht : step s = .next t) : sys.stepAt k = .next (sys.setInstance k t) := by
  simp only [System.stepAt, hs, ht]

theorem System.stepAt_completes (sys : System) (k : Nat) : ∃ sys', sys.stepAt k = .next sys' := by
  cases hk : sys.instances[k]? with
  | none => exact ⟨sys, by simp only [System.stepAt, hk]⟩
  | some s =>
    obtain ⟨t, ht⟩ := step_completes s
    exact ⟨_, System.stepAt_of_step hk ht⟩

/-- A step of one instance changes no other (60_exceptions.md R258). -/
theorem System.stepAt_other {sys sys' : System} {k j : Nat} (h : sys.stepAt k = .next sys') (hkj : k ≠ j) :
    sys'.instances[j]? = sys.instances[j]? := by
  rcases System.stepAt_cases h with ⟨-, rfl⟩ | ⟨s, t, -, -, rfl⟩
  · rfl
  · rw [System.instances_setInstance, List.getElem?_set_ne hkj]

theorem System.setInstance_self {sys : System} {k : Nat} {s : State} (hs : sys.instances[k]? = some s) (t : State) :
    (sys.setInstance k t).instances[k]? = some t := by
  obtain ⟨hk, -⟩ := List.getElem?_eq_some_iff.mp hs
  rw [System.instances_setInstance, List.getElem?_set_self hk]

theorem System.runSchedule_cons {sys sys' : System} {k : Nat} (h : sys.stepAt k = .next sys') (more : List Nat) :
    System.runSchedule (k :: more) sys = System.runSchedule more sys' := by
  simp only [System.runSchedule, h]

/-- Settles O58, by induction on the schedule: where it names instance `j`, the system and the instance run alone make
the same step; where it names another index, instance `j` stays as it is. -/
theorem instancesDoNotDisturbEachOther : Obligations.InstancesDoNotDisturbEachOther := by
  intro schedule
  induction schedule with
  | nil => exact fun sys j s hs => ⟨sys, s, rfl, hs, core_run_zero s⟩
  | cons k more ih =>
    intro sys j s hs
    by_cases hkj : k = j
    · subst hkj
      obtain ⟨t, ht⟩ := step_completes s
      rw [System.runSchedule_cons (System.stepAt_of_step hs ht), List.count_cons_self, core_run_succ ht]
      exact ih _ k t (System.setInstance_self hs t)
    · obtain ⟨sys', hsys'⟩ := System.stepAt_completes sys k
      rw [System.runSchedule_cons hsys', List.count_cons_of_ne hkj]
      exact ih sys' j s (by rw [System.stepAt_other hsys' hkj, hs])

end Sys2Proof.Machine
end

section
/-!
30_encoding.md R96: which command packets are malformed. Each reader of a field accepts the bytes that the fixed part of
the format and its `dlen` allow; so the decoder reads an operation that has an opcode exactly from the packets that are
not malformed, and a step answers all others with `IllegalCommand`.
-/

namespace Sys2Proof.Machine

/-! ### Packets whose size fits their format -/

/-- The fixed part of `fixed` bytes is there, and the `dlen` that ends it counts the bytes that follow (R92). -/
def DlenFits (packet : List Byte) (fixed : Nat) : Prop :=
  fixed ≤ packet.length ∧ dlenOf packet fixed = packet.length - fixed

/-- The size that a packet of the format has to have (R92, R96). -/
def SizeFits (f : Format) (packet : List Byte) : Prop :=
  match f with
  | .n => packet.length = 1
  | .d | .vd | .od | .old => DlenFits packet (fixedBytes f)

theorem not_dlenFits_of_length_lt {packet : List Byte} {fixed : Nat} (h : packet.length < fixed) :
    ¬ DlenFits packet fixed := fun hfits => absurd hfits.1 (Nat.not_le.mpr h)

theorem byteAt_append_right (pre s : List Byte) (i : Nat) : byteAt (pre ++ s) (pre.length + i) = byteAt s i := by
  rw [← byteAt_drop, List.drop_left]

/-- The `dlen` field is made of the four bytes after the rest of the fixed part. -/
theorem dlenOf_append (pre data : List Byte) (b3 b2 b1 b0 : Byte) :
    dlenOf (pre ++ b3 :: b2 :: b1 :: b0 :: data) (pre.length + 4) = (dwordOf b3 b2 b1 b0).toNat := by
  simp only [dlenOf, Nat.add_sub_assoc, Nat.reduceLeDiff, Nat.reduceSub, byteAt_append_right]
  rfl

theorem dlenFits_append_iff (pre data : List Byte) (b3 b2 b1 b0 : Byte) :
    DlenFits (pre ++ b3 :: b2 :: b1 :: b0 :: data) (pre.length + 4) ↔
      (dwordOf b3 b2 b1 b0).toNat = data.length := by
  have hlen : (pre ++ b3 :: b2 :: b1 :: b0 :: data).length = pre.length + 4 + data.length := by
    simp only [List.length_append, List.length_cons]; omega
  rw [DlenFits, dlenOf_append, hlen, Nat.add_sub_cancel_left]
  exact and_iff_right (Nat.le_add_right _ _)

/-- A packet with an assigned opcode is malformed exactly if its size does not fit the format (R96). -/
theorem malformed_cons_iff {opcode : Byte} {o : Operation} (h : operationOf opcode = some o) (rest : List Byte) :
    Malformed (opcode :: rest) ↔ ¬ SizeFits (formatOf o) (opcode :: rest) := by
  have hbyte : operationOf (byteAt (opcode :: rest) 0) = some o := h
  simp only [Malformed, hbyte, reduceCtorEq, false_or, Option.some.injEq, exists_eq_left']
  cases formatOf o with
  | n =>
    simp only [SizeFits, fixedBytes, List.length_cons, true_and, ne_eq, not_true_eq_false, false_and, or_false]
    omega
  | d | vd | od | old =>
    simp only [SizeFits, DlenFits, reduceCtorEq, false_and, false_or, ne_eq, not_false_eq_true, true_and,
      not_and_or, Nat.not_le]

/-! ### What the readers accept -/

/-- A decoding that gives an operation that has an opcode, neither an error nor `(reserved)`. -/
def NamesOperation (r : Except DecodeError Instr) : Prop :=
  ∃ i, r = .ok i ∧ ∀ op rest, i ≠ .reserved op rest

theorem not_namesOperation_error (e : DecodeError) : ¬ NamesOperation (.error e) := nofun

theorem not_namesOperation_reserved (opcode : Byte) (rest : List Byte) :
    ¬ NamesOperation (.ok (.reserved opcode rest)) := by
  rintro ⟨_, hi, hne⟩
  cases hi
  exact hne opcode rest rfl

/-- A decoding that gives no operation is an error or a reserved opcode. -/
theorem cases_of_not_namesOperation {r : Except DecodeError Instr} (h : ¬ NamesOperation r) :
    (∃ e, r = .error e) ∨ ∃ opcode rest, r = .ok (.reserved opcode rest) := by
  cases r with
  | error e => exact .inl ⟨e, rfl⟩
  | ok i =>
    by_contra hother
    exact h ⟨i, rfl, fun opcode rest hi => hother (.inr ⟨opcode, rest, congrArg _ hi⟩)⟩

theorem readNothing_namesOperation (opcode : Byte) {i : Instr} (hi : ∀ op more, i ≠ .reserved op more)
    (rest : List Byte) : NamesOperation (readNothing rest i) ↔ (opcode :: rest).length = 1 := by
  cases rest with
  | nil => exact iff_of_true ⟨i, rfl, hi⟩ rfl
  | cons b more => exact iff_of_false (not_namesOperation_error _) (by simp)

/-- After a part `pre` of the packet, `dlen` and the data are read exactly if `dlen` fits. -/
theorem readData_namesOperation (pre : List Byte) {mk : List Byte → Instr}
    (hmk : ∀ data op more, mk data ≠ .reserved op more) (rest : List Byte) :
    NamesOperation (readData rest mk) ↔ DlenFits (pre ++ rest) (pre.length + 4) := by
  match rest with
  | b3 :: b2 :: b1 :: b0 :: data =>
    rw [dlenFits_append_iff, readData]
    split
    case isTrue hdlen => exact iff_of_true ⟨_, rfl, hmk data⟩ hdlen
    case isFalse hdlen => exact iff_of_false (not_namesOperation_error _) hdlen
  | [] | [_] | [_, _] | [_, _, _] =>
    exact iff_of_false (not_namesOperation_error _) (not_dlenFits_of_length_lt (by simp))

section
variable {pre : List Byte} {fixed : Nat}

theorem readVersion_namesOperation {k : Byte → List Byte → Except DecodeError Instr}
    (hk : ∀ v more, NamesOperation (k v more) ↔ DlenFits (pre ++ v :: more) fixed)
    (hfixed : pre.length + 1 ≤ fixed) (rest : List Byte) :
    NamesOperation (readVersion rest k) ↔ DlenFits (pre ++ rest) fixed := by
  match rest with
  | v :: more => exact hk v more
  | [] => exact iff_of_false (not_namesOperation_error _) (not_dlenFits_of_length_lt (by simp; omega))

theorem readOffset_namesOperation {k : Nat → List Byte → Except DecodeError Instr}
    (hk : ∀ b3 b2 b1 b0 more, NamesOperation (k (dwordOf b3 b2 b1 b0).toNat more) ↔
      DlenFits (pre ++ b3 :: b2 :: b1 :: b0 :: more) fixed) (hfixed : pre.length + 4 ≤ fixed)
    (rest : List Byte) : NamesOperation (readOffset rest k) ↔ DlenFits (pre ++ rest) fixed := by
  match rest with
  | b3 :: b2 :: b1 :: b0 :: more => exact hk b3 b2 b1 b0 more
  | [] | [_] | [_, _] | [_, _, _] =>
    exact iff_of_false (not_namesOperation_error _) (not_dlenFits_of_length_lt (by simp; omega))

theorem readLength_namesOperation {k : Word → List Byte → Except DecodeError Instr}
    (hk : ∀ hi lo more, NamesOperation (k (wordOf hi lo) more) ↔ DlenFits (pre ++ hi :: lo :: more) fixed)
    (hfixed : pre.length + 2 ≤ fixed) (rest : List Byte) :
    NamesOperation (readLength rest k) ↔ DlenFits (pre ++ rest) fixed := by
  match rest with
  | hi :: lo :: more => exact hk hi lo more
  | [] | [_] => exact iff_of_false (not_namesOperation_error _) (not_dlenFits_of_length_lt (by simp; omega))

end

/-! ### What the decoder accepts -/

/-- The operands of an operation are read exactly if the size of the packet fits its format. -/
theorem decodeOperands_namesOperation (o : Operation) (opcode : Byte) (rest : List Byte) :
    NamesOperation (decodeOperands o rest) ↔ SizeFits (formatOf o) (opcode :: rest) := by
  cases o with
  | csInit | csRead | reset | status => exact readNothing_namesOperation opcode (by simp) rest
  | csBlock | csUpdate | decode | feed => exact readData_namesOperation [opcode] (by simp) rest
  | encode =>
    change NamesOperation (readVersion rest fun v more => readData more (.encode v)) ↔ DlenFits ([opcode] ++ rest) 6
    refine readVersion_namesOperation (fun v more => ?_) (by simp) rest
    exact readData_namesOperation [opcode, v] (by simp) more
  | decHdr =>
    change NamesOperation (readOffset rest fun off more => readData more (.decHdr off)) ↔
      DlenFits ([opcode] ++ rest) 9
    refine readOffset_namesOperation (fun b3 b2 b1 b0 more => ?_) (by simp) rest
    exact readData_namesOperation [opcode, b3, b2, b1, b0] (by simp) more
  | decFull =>
    change NamesOperation (readOffset rest fun off more => readLength more fun len more' =>
      readData more' (.decFull off len)) ↔ DlenFits ([opcode] ++ rest) 11
    refine readOffset_namesOperation (fun b3 b2 b1 b0 more => ?_) (by simp) rest
    refine readLength_namesOperation (pre := [opcode, b3, b2, b1, b0]) (fun hi lo more' => ?_) (by simp) more
    exact readData_namesOperation [opcode, b3, b2, b1, b0, hi, lo] (by simp) more'

/-- A packet decodes to an operation that has an opcode exactly if it is not malformed (R96). -/
theorem decodePacket_namesOperation (packet : List Byte) :
    NamesOperation (decodePacket packet) ↔ ¬ Malformed packet := by
  cases packet with
  | nil => exact iff_of_false (not_namesOperation_error _) (not_not_intro (.inl rfl))
  | cons opcode rest =>
    cases hop : operationOf opcode with
    | none =>
      have hread : decodePacket (opcode :: rest) = .ok (.reserved opcode rest) := by rw [decodePacket, hop]
      rw [hread]
      exact iff_of_false (not_namesOperation_reserved opcode rest) (not_not_intro (.inr (.inl hop)))
    | some o =>
      have hread : decodePacket (opcode :: rest) = decodeOperands o rest := by rw [decodePacket, hop]
      rw [hread, malformed_cons_iff hop, not_not]
      exact decodeOperands_namesOperation o opcode rest

/-! ### What the step does with an input -/

section
variable {s : State} {input : HostInput} {more : List HostInput}

theorem step_of_decode_ok (hin : s.inbox = input :: more) {i : Instr} (hdec : Sys2Proof.decode input = .ok i) :
    step s = exec i { s with inbox := more } := by
  simp only [step, State.takeInput_cons hin, hdec]

theorem step_of_decode_error (hin : s.inbox = input :: more) {e : DecodeError}
    (hdec : Sys2Proof.decode input = .error e) : step s = .next { s with inbox := more }.answerIllegal := by
  simp only [step, State.takeInput_cons hin, hdec]

/-- An input that gives no operation is answered with `IllegalCommand`, be it rejected by the decoder or executed as
`(reserved)`. -/
theorem step_of_not_namesOperation (hin : s.inbox = input :: more) (h : ¬ NamesOperation (Sys2Proof.decode input)) :
    step s = .next { s with inbox := more }.answerIllegal := by
  rcases cases_of_not_namesOperation h with ⟨e, he⟩ | ⟨opcode, rest, hres⟩
  · exact step_of_decode_error hin he
  · exact step_of_decode_ok hin hres

end

/-- Settles O46: the packets that decode to an operation that has an opcode are those that are not malformed. -/
theorem malformedPacketsAreIllegalCommands : Obligations.MalformedPacketsAreIllegalCommands := by
  intro packet more s hin
  have hnames : NamesOperation (Sys2Proof.decode (.command packet)) ↔ ¬ Malformed packet :=
    decodePacket_namesOperation packet
  constructor
  · intro hmal
    exact step_of_not_namesOperation hin fun hop => hnames.mp hop hmal
  · intro hwell
    obtain ⟨i, hdec, hassigned⟩ := hnames.mpr hwell
    exact ⟨i, hdec, hassigned, step_of_decode_ok hin hdec⟩

end Sys2Proof.Machine
end

section
/-!
40_checksum.md R122: the engine's 16-bit byte steps give the value of the document's listing. The listing shifts an
unbounded natural; every bit step commutes with the truncation to 16 bits, so one truncation a byte is enough.
R130 to R133: the four operations of the Checksum Engine, from the packet to the response.
-/

namespace Sys2Proof.Machine

/-! ### The listing and the byte step -/

theorem ofNat_listingBit (n : Nat) : BitVec.ofNat 16 (listingBit n) = crcBit (BitVec.ofNat 16 n) := by
  have hbit : (BitVec.ofNat 16 n).getLsbD 15 = n.testBit 15 := by
    rw [BitVec.getLsbD_ofNat]; simp
  have hshift : BitVec.ofNat 16 (n <<< 1) = BitVec.ofNat 16 n <<< 1 := by
    apply BitVec.eq_of_toNat_eq
    simp only [BitVec.toNat_shiftLeft, BitVec.toNat_ofNat, Nat.shiftLeft_eq]
    omega
  rw [listingBit, crcBit, hbit]
  cases n.testBit 15 with
  | false => exact hshift
  | true => simp only [if_true, BitVec.ofNat_xor, hshift, Config.crcPoly]

/-- Truncating after any number of bit steps is the same as truncating before them (40_checksum.md R125). -/
theorem ofNat_repeat_listingBit (k n : Nat) :
    BitVec.ofNat 16 (Nat.repeat listingBit k n) = Nat.repeat crcBit k (BitVec.ofNat 16 n) := by
  induction k with
  | zero => rfl
  | succ k ih => rw [Nat.repeat, Nat.repeat, ofNat_listingBit, ih]

theorem crcByte_eq_repeat (c : Word) (b : Byte) :
    crcByte c b = Nat.repeat crcBit 8 (c ^^^ (b.zeroExtend 16 <<< 8)) := rfl

theorem crcByte_toNat (c : Word) (b : Byte) : (crcByte c b).toNat = listingByte c.toNat b := by
  have hb : b.toNat < 65536 := by omega
  have hstart : BitVec.ofNat 16 (c.toNat ^^^ (b.toNat <<< 8)) = c ^^^ (b.zeroExtend 16 <<< 8) := by
    apply BitVec.eq_of_toNat_eq
    simp [Nat.mod_eq_of_lt hb]
  rw [crcByte_eq_repeat, ← hstart, ← ofNat_repeat_listingBit, BitVec.toNat_ofNat]
  exact (Nat.and_two_pow_sub_one_eq_mod _ 16).symm

theorem crcFold_toNat (c : Word) (bytes : List Byte) :
    (crcFold c bytes).toNat = bytes.foldl listingByte c.toNat := by
  induction bytes generalizing c with
  | nil => rfl
  | cons b more ih =>
    calc (crcFold c (b :: more)).toNat = (crcFold (crcByte c b) more).toNat := rfl
      _ = more.foldl listingByte (crcByte c b).toNat := ih _
      _ = (b :: more).foldl listingByte c.toNat := by rw [crcByte_toNat, List.foldl_cons]

theorem checksum_toNat (bytes : List Byte) : (checksum bytes).toNat = checksumListing bytes :=
  crcFold_toNat Config.crcInit bytes

theorem ofNat_checksumListing (bytes : List Byte) : BitVec.ofNat 16 (checksumListing bytes) = checksum bytes := by
  rw [← checksum_toNat, BitVec.ofNat_toNat, BitVec.setWidth_eq]

/-- Settles O1: each byte step of the engine has the value of the listing's, by commuting with the truncation. -/
theorem checksumIsTheDocumentsListing : Obligations.ChecksumIsTheDocumentsListing := checksum_toNat

/-! ### The packets of the engine's operations -/

/-- A packet of an assigned opcode is read as the operands of its operation (30_encoding.md R92, R93). -/
theorem decode_packetOf (o : Operation) (rest : List Byte) : decode (packetOf o rest) = decodeOperands o rest := by
  rw [packetOf, decode, decodePacket, operationOf_opcodeOf]

/-- A `dlen` that has room for the number of data bytes is read back as that number (30_encoding.md R92). -/
theorem readData_dataField {bytes : List Byte} (h : bytes.length < 4294967296) (mk : List Byte → Instr) :
    readData (dataField bytes) mk = .ok (mk bytes) := by
  have hlen : (BitVec.ofNat 32 bytes.length).toNat = bytes.length := by
    rw [BitVec.toNat_ofNat]; exact Nat.mod_eq_of_lt h
  simp only [dataField, be32, List.cons_append, List.nil_append, readData, dwordOf_extract, hlen, if_true]

/-- The response packet of the examples of R130 and R133. -/
theorem packet_ok_value_example : (Response.ok (.value 0xFE3A#16)).packet = [0x00#8, 0xFE#8, 0x3A#8] := by
  decide

/-! ### The four operations -/

theorem exec_csBlock (bytes : List Byte) (s : State) :
    exec (.csBlock bytes) s = .next (s.respond (.ok (.value (checksum bytes)))) := rfl

theorem exec_csInit (s : State) :
    exec .csInit s = .next ({ s with crcAcc := 0xFFFF#16 }.respond (.ok .nothing)) := rfl

theorem exec_csUpdate (bytes : List Byte) (s : State) :
    exec (.csUpdate bytes) s = .next ({ s with crcAcc := crcFold s.crcAcc bytes }.respond (.ok .nothing)) := rfl

theorem exec_csRead (s : State) : exec .csRead s = .next (s.respond (.ok (.value s.crcAcc))) := rfl

/-- The two parts of the example of R132: the header bytes of the `Hello` frame, then its payload. -/
theorem crcFold_hello_parts :
    crcFold 0xFFFF#16 [0x01#8, 0x00#8, 0x05#8] = 0xAB09#16 ∧
    crcFold 0xAB09#16 [0x48#8, 0x65#8, 0x6C#8, 0x6C#8, 0x6F#8] = 0xFE3A#16 := by decide +kernel

/-- The corner cases of R130 and its example, evaluated on the listing itself. -/
theorem checksumListing_examples :
    checksumListing [] = 0xFFFF ∧ checksumListing [0xFF#8, 0xFF#8] = 0x0000 ∧ checksumListing helloSpan = 0xFE3A := by
  decide +kernel

/-- Settles O4: `dlen` is read back, and the value answered is the listing's by `ofNat_checksumListing`. -/
theorem csBlockAnswersTheChecksum : Obligations.CsBlockAnswersTheChecksum := by
  obtain ⟨hempty, hones, hhello⟩ := checksumListing_examples
  refine ⟨fun bytes s => ⟨fun h => ?_, ?_⟩, hempty, hones, hhello, packet_ok_value_example⟩
  · exact (decode_packetOf .csBlock (dataField bytes)).trans (readData_dataField h .csBlock)
  · rw [ofNat_checksumListing, exec_csBlock, State.respond]

/-- Settles O6: the operation's fold of the byte step is the one the statement writes out. -/
theorem csUpdateFoldsItsBytes : Obligations.CsUpdateFoldsItsBytes := by
  refine ⟨fun bytes s => ⟨fun h => ?_, exec_csUpdate bytes s⟩, crcFold_hello_parts⟩
  exact (decode_packetOf .csUpdate (dataField bytes)).trans (readData_dataField h .csUpdate)

/-- Settles O5: a packet of format N holds no operand, and the arm of `exec` writes `crc_acc` alone. -/
theorem csInitSetsTheAccumulator : Obligations.CsInitSetsTheAccumulator :=
  ⟨decode_packetOf .csInit [], rfl, exec_csInit⟩

/-- Settles O7: a packet of format N holds no operand, and the arm of `exec` only responds. -/
theorem csReadAnswersTheAccumulator : Obligations.CsReadAnswersTheAccumulator :=
  ⟨decode_packetOf .csRead [], packet_ok_value_example, exec_csRead⟩

end Sys2Proof.Machine
end

section
/-!
41_frame_codec.md R151 to R166: the four operations of the Frame Codec, from the packet to the response. `DEC.FULL`
reads nothing but the `6 + length` bytes after its offset, which is why bytes beyond the span and the marker byte do not
count.
-/

namespace Sys2Proof.Machine

/-! ### The operands of the packets -/

/-- An offset that fits its field is read back (30_encoding.md R92). -/
theorem readOffset_offsetField {offset : Nat} (h : offset < 4294967296) (rest : List Byte)
    (k : Nat → List Byte → Except DecodeError Instr) :
    readOffset (offsetField offset ++ rest) k = k offset rest := by
  have hoffset : (BitVec.ofNat 32 offset).toNat = offset := by
    rw [BitVec.toNat_ofNat]; exact Nat.mod_eq_of_lt h
  simp only [offsetField, be32, List.cons_append, List.nil_append, readOffset, dwordOf_extract, hoffset]

/-- A length is read back (30_encoding.md R92). -/
theorem readLength_be16 (length : Word) (rest : List Byte) (k : Word → List Byte → Except DecodeError Instr) :
    readLength (be16 length ++ rest) k = k length rest := by
  simp only [be16, List.cons_append, List.nil_append, readLength, wordOf_extract]

/-! ### The answers -/

/-- The response that a pure function's result is answered with (60_exceptions.md R252). -/
def Response.ofResult : Except Failure Reply → Response
  | .ok r => .ok r
  | .error f => .failed f

theorem State.answer_eq_ofResult (s : State) (result : Except Failure Reply) :
    s.answer result = { s with outbox := s.outbox ++ [.ofResult result] } := by
  rw [State.answer_eq]
  cases result <;> rfl

theorem exec_encode (v : Byte) (p : List Byte) (s : State) :
    exec (.encode v p) s =
      .next { s with outbox := s.outbox ++ [.ofResult ((encodeFrame v p).map .encoded)] } :=
  congrArg _ (s.answer_eq_ofResult _)

theorem exec_decHdr (offset : Nat) (bytes : List Byte) (s : State) :
    exec (.decHdr offset bytes) s =
      .next { s with outbox := s.outbox ++ [.ofResult ((decodeHeader bytes offset).map .header)] } :=
  congrArg _ (s.answer_eq_ofResult _)

theorem exec_decFull (offset : Nat) (length : Word) (bytes : List Byte) (s : State) :
    exec (.decFull offset length bytes) s =
      .next { s with outbox := s.outbox ++ [.ofResult ((decodeFull bytes offset length).map .frame)] } :=
  congrArg _ (s.answer_eq_ofResult _)

theorem exec_decode (bytes : List Byte) (s : State) :
    exec (.decode bytes) s =
      .next { s with outbox := s.outbox ++ [.ofResult ((decodeFrame bytes).map .frame)] } :=
  congrArg _ (s.answer_eq_ofResult _)

/-! ### The pure functions, equation by equation -/

/-- The frame of a payload, field by field (41_frame_codec.md R151). -/
theorem frameOf_eq (v : Byte) (p : List Byte) :
    frameOf v p = 0xAA#8 :: (v :: be16 (BitVec.ofNat 16 p.length) ++ p) ++
      be16 (checksum (v :: be16 (BitVec.ofNat 16 p.length) ++ p)) ++ [0x55#8] :=
  (List.append_assoc _ _ _).symm

theorem encodeFrame_of_le {p : List Byte} (v : Byte) (h : p.length ≤ 65535) :
    encodeFrame v p = .ok (frameOf v p) :=
  if_neg (Nat.not_lt.mpr h)

theorem encodeFrame_of_gt {p : List Byte} (v : Byte) (h : 65535 < p.length) :
    encodeFrame v p = .error .payloadTooLarge :=
  if_pos h

theorem avail_lt_iff {n : Nat} (hn : 0 < n) (bytes : List Byte) (offset : Nat) :
    avail bytes offset < n ↔ bytes.length < offset + n := by
  rw [avail_eq]; omega

theorem u16be_toNat (bytes : List Byte) (i : Nat) :
    (u16be bytes i).toNat = (byteAt bytes i).toNat * 256 + (byteAt bytes (i + 1)).toNat :=
  wordOf_toNat _ _

/-- The comparison of the checksums, in the naturals of the document's listing (40_checksum.md R122). -/
theorem checksum_eq_u16be_iff (span bytes : List Byte) (i : Nat) :
    checksum span = u16be bytes i ↔
      checksumListing span = (byteAt bytes i).toNat * 256 + (byteAt bytes (i + 1)).toNat := by
  rw [← BitVec.toNat_inj, checksum_toNat, u16be_toNat]

theorem slice_add (bytes : List Byte) (a n : Nat) : slice bytes a (a + n) = (bytes.drop a).take n := by
  rw [slice, Nat.add_sub_cancel_left]

/-- `DEC.HDR` at any offset (41_frame_codec.md R155 to R157). -/
theorem decodeHeader_eq (bytes : List Byte) (offset : Nat) :
    decodeHeader bytes offset =
      if bytes.length < offset + 4 then .error .incomplete
      else if byteAt bytes offset ≠ 0xAA#8 then .error (.invalidMarker offset)
      else .ok { version := byteAt bytes (offset + 1), length := u16be bytes (offset + 2) } :=
  if_congr (avail_lt_iff (n := 4) (by decide) bytes offset) rfl rfl

/-- `DEC.FULL` at any offset (41_frame_codec.md R160 to R163). -/
theorem decodeFull_eq (bytes : List Byte) (offset : Nat) (length : Word) :
    decodeFull bytes offset length =
      if bytes.length < offset + 7 + length.toNat then .error .incomplete
      else if checksum ((bytes.drop (offset + 1)).take (3 + length.toNat)) ≠ u16be bytes (offset + 4 + length.toNat)
        then .error .invalidChecksum
      else if byteAt bytes (offset + 6 + length.toNat) ≠ 0x55#8 then .error .invalidEndMarker
      else .ok { version := byteAt bytes (offset + 1), length := length,
                 payload := (bytes.drop (offset + 4)).take length.toNat,
                 checksum := u16be bytes (offset + 4 + length.toNat) } := by
  have hshort : avail bytes offset < 7 + length.toNat ↔ bytes.length < offset + 7 + length.toNat := by
    rw [avail_lt_iff (by omega), Nat.add_assoc]
  have hspan : slice bytes (offset + 1) (offset + 4 + length.toNat) =
      (bytes.drop (offset + 1)).take (3 + length.toNat) := by
    rw [← slice_add]; congr 1; omega
  simp only [decodeFull, Config.overhead, Config.endMarker, hshort, hspan, slice_add]

theorem decodeFrame_of_header_ok {bytes : List Byte} {h : Header} (hh : decodeHeader bytes 0 = .ok h) :
    decodeFrame bytes = decodeFull bytes 0 h.length := by
  simp only [decodeFrame, hh]

theorem decodeFrame_of_header_error {bytes : List Byte} {f : Failure} (hh : decodeHeader bytes 0 = .error f) :
    decodeFrame bytes = .error f := by
  simp only [decodeFrame, hh]

/-! ### What `DEC.FULL` reads -/

theorem byteAt_take {n i : Nat} (h : i < n) (s : List Byte) : byteAt (s.take n) i = byteAt s i := by
  simp only [byteAt, List.getD_eq_getElem?_getD, List.getElem?_take_of_lt h]

/-- `DEC.FULL` depends on whether the span is there and on the `6 + length` bytes after the offset, and on nothing else
(41_frame_codec.md R164, R165). -/
theorem decodeFull_congr {a b : List Byte} {offset : Nat} {length : Word}
    (hshort : a.length < offset + 7 + length.toNat ↔ b.length < offset + 7 + length.toNat)
    (hspan : (a.drop (offset + 1)).take (6 + length.toNat) = (b.drop (offset + 1)).take (6 + length.toNat)) :
    decodeFull a offset length = decodeFull b offset length := by
  have hbyte (i : Nat) (hi : i < 6 + length.toNat) : byteAt a (offset + 1 + i) = byteAt b (offset + 1 + i) := by
    rw [← byteAt_drop, ← byteAt_drop, ← byteAt_take hi, hspan, byteAt_take hi]
  have hbody : (a.drop (offset + 1)).take (3 + length.toNat) = (b.drop (offset + 1)).take (3 + length.toNat) := by
    simpa [List.take_take] using congrArg (List.take (3 + length.toNat)) hspan
  have hpayload : (a.drop (offset + 4)).take length.toNat = (b.drop (offset + 4)).take length.toNat := by
    simpa [List.drop_take, List.drop_drop] using congrArg (List.drop 3) hbody
  have hversion : byteAt a (offset + 1) = byteAt b (offset + 1) := hbyte 0 (by omega)
  have hend : byteAt a (offset + 6 + length.toNat) = byteAt b (offset + 6 + length.toNat) := by
    convert hbyte (5 + length.toNat) (by omega) using 2 <;> omega
  have hstored : u16be a (offset + 4 + length.toNat) = u16be b (offset + 4 + length.toNat) := by
    rw [u16be, u16be]
    congr 1
    · convert hbyte (3 + length.toNat) (by omega) using 2 <;> omega
    · convert hbyte (4 + length.toNat) (by omega) using 2 <;> omega
  simp only [decodeFull_eq, hshort, hbody, hpayload, hversion, hend, hstored]

/-- Bytes beyond the span do not count (41_frame_codec.md R164). -/
theorem decodeFull_append {bytes : List Byte} {offset : Nat} {length : Word}
    (h : offset + 7 + length.toNat ≤ bytes.length) (more : List Byte) :
    decodeFull (bytes ++ more) offset length = decodeFull bytes offset length := by
  apply decodeFull_congr
  · simp only [List.length_append]; omega
  · rw [List.drop_append_of_le_length (by omega), List.take_append_of_le_length (by simp; omega)]

/-- The byte at the offset does not count (41_frame_codec.md R165). -/
theorem decodeFull_set_marker (bytes : List Byte) (offset : Nat) (length : Word) (b : Byte) :
    decodeFull (bytes.set offset b) offset length = decodeFull bytes offset length := by
  apply decodeFull_congr
  · rw [List.length_set]
  · rw [List.drop_set_of_lt (Nat.lt_succ_self offset)]

theorem u16be_append_be16 (pre more : List Byte) (c : Word) : u16be (pre ++ (be16 c ++ more)) pre.length = c := by
  have hhi := byteAt_append_right pre (be16 c ++ more) 0
  have hlo := byteAt_append_right pre (be16 c ++ more) 1
  calc u16be (pre ++ (be16 c ++ more)) pre.length = wordOf (c.extractLsb' 8 8) (c.extractLsb' 0 8) :=
        congrArg₂ wordOf hhi hlo
    _ = c := wordOf_extract c

/-- A span with the right checksum and end marker is accepted behind any bytes, whatever its first byte and its length
bytes are (41_frame_codec.md R163, R165). -/
theorem decodeFull_span (noise : List Byte) (m v hi lo : Byte) {p : List Byte} (h : p.length ≤ 65535) :
    decodeFull (noise ++ m :: v :: hi :: lo :: p ++ be16 (checksum (v :: hi :: lo :: p)) ++ [0x55#8]) noise.length
      (BitVec.ofNat 16 p.length) =
      .ok { version := v, length := BitVec.ofNat 16 p.length, payload := p,
            checksum := checksum (v :: hi :: lo :: p) } := by
  have hlen : (BitVec.ofNat 16 p.length).toNat = p.length := by
    rw [BitVec.toNat_ofNat]; exact Nat.mod_eq_of_lt (by omega)
  generalize hc : checksum (v :: hi :: lo :: p) = c
  have hpre : (noise ++ m :: v :: hi :: lo :: p).length = noise.length + 4 + p.length := by
    simp; omega
  rw [List.append_assoc]
  generalize hb : (noise ++ m :: v :: hi :: lo :: p) ++ (be16 c ++ [0x55#8]) = bytes
  have hshort : ¬ bytes.length < noise.length + 7 + p.length := by
    rw [← hb, List.length_append, hpre]; simp; omega
  have hbody : (bytes.drop (noise.length + 1)).take (3 + p.length) = v :: hi :: lo :: p := by
    rw [← hb]; simp [Nat.add_comm 3]
  have hpayload : (bytes.drop (noise.length + 4)).take p.length = p := by
    rw [← hb]; simp
  have hversion : byteAt bytes (noise.length + 1) = v := by
    rw [← hb, List.append_assoc]; exact byteAt_append_right noise _ 1
  have hstored : u16be bytes (noise.length + 4 + p.length) = c := by
    rw [← hb, ← hpre]; exact u16be_append_be16 _ _ _
  have hend : byteAt bytes (noise.length + 6 + p.length) = 0x55#8 := by
    have hlast : noise.length + 6 + p.length = (noise ++ m :: v :: hi :: lo :: p).length + 2 := by omega
    rw [← hb, hlast]; exact byteAt_append_right _ _ 2
  simp only [decodeFull_eq, hlen, hshort, hbody, hc, hpayload, hversion, hstored, hend, ne_eq, not_true_eq_false,
    if_false]

/-- The two calls of 41_frame_codec.md R165, with the computed and the stored value of the second. -/
theorem decodeFull_examples :
    decodeFull (helloFrame.set 0 0xBB#8) 0 5#16 =
      .ok { version := 0x01#8, length := 5#16, payload := [0x48#8, 0x65#8, 0x6C#8, 0x6C#8, 0x6F#8],
            checksum := 0xFE3A#16 } ∧
    decodeFull helloFrame 0 4#16 = .error .invalidChecksum ∧
    checksumListing (helloSpan.take 7) = 0x1251 ∧ u16be helloFrame 8 = 0x6FFE#16 := by decide +kernel

/-! ### The obligations -/

/-- Settles O10: at most 65535 payload bytes make a frame, whose stored checksum is the listing's. -/
theorem encodeAnswersTheFrame : Obligations.EncodeAnswersTheFrame := by
  have hhello : frameOf 0x01#8 (helloSpan.drop 3) = helloFrame := by decide +kernel
  refine ⟨fun v p s => ⟨fun h => ?_, fun h => ⟨_, rfl, ?_⟩, fun h => ?_⟩, fun s => ?_, by decide⟩
  · exact (decode_packetOf .encode (v :: dataField p)).trans (readData_dataField h (.encode v))
  · rw [ofNat_checksumListing, exec_encode, encodeFrame_of_le v h, frameOf_eq]
    rfl
  · rw [exec_encode, encodeFrame_of_gt v h]
    rfl
  · rw [exec_encode, encodeFrame_of_le _ (by decide), hhello]
    rfl

/-- Settles O12: offset and data are read back, and `decodeHeader_eq` has the rule's order of testing. -/
theorem decHdrParsesTheHeader : Obligations.DecHdrParsesTheHeader := by
  refine ⟨by decide, fun offset bytes s => ⟨fun hoffset hbytes => ?_, ?_⟩⟩
  · calc decode (packetOf .decHdr (offsetField offset ++ dataField bytes))
        = readOffset (offsetField offset ++ dataField bytes) fun off more => readData more (.decHdr off) :=
          decode_packetOf .decHdr _
      _ = readData (dataField bytes) (.decHdr offset) := readOffset_offsetField hoffset _ _
      _ = .ok (.decHdr offset bytes) := readData_dataField hbytes _
  · rw [exec_decHdr, decodeHeader_eq, ← u16be_toNat, BitVec.ofNat_toNat, BitVec.setWidth_eq]
    split_ifs <;> rfl

/-- Settles O13: the three operands are read back, and `decodeFull_eq` has the rule's order of testing; its checksums
are compared as naturals by `checksum_eq_u16be_iff`. -/
theorem decFullValidatesTheSpan : Obligations.DecFullValidatesTheSpan := by
  refine ⟨by decide, fun offset length bytes s => ⟨fun hoffset hbytes => ?_, ?_⟩⟩
  · calc decode (packetOf .decFull (offsetField offset ++ (be16 length ++ dataField bytes)))
        = readOffset (offsetField offset ++ (be16 length ++ dataField bytes)) fun off more =>
            readLength more fun len more' => readData more' (.decFull off len) := decode_packetOf .decFull _
      _ = readLength (be16 length ++ dataField bytes) fun len more' => readData more' (.decFull offset len) :=
          readOffset_offsetField hoffset _ _
      _ = readData (dataField bytes) (.decFull offset length) := readLength_be16 length _ _
      _ = .ok (.decFull offset length bytes) := readData_dataField hbytes _
  · have hnext : offset + 5 + length.toNat = offset + 4 + length.toNat + 1 := by omega
    rw [exec_decFull, decodeFull_eq, hnext]
    simp only [ne_eq, checksum_eq_u16be_iff]
    split_ifs <;> rfl

/-- Settles O14: the appended bytes lie behind everything `DEC.FULL` reads. -/
theorem decFullIgnoresBytesBeyondTheSpan : Obligations.DecFullIgnoresBytesBeyondTheSpan := by
  intro offset length bytes more s hspan
  refine ⟨_, exec_decFull offset length bytes s, ?_⟩
  rw [exec_decFull, decodeFull_append hspan]

/-- Settles O15: the byte at the offset lies before everything `DEC.FULL` reads, and of the length bytes only the
checksum takes account. -/
theorem decFullChecksNeitherMarkerNorLengthBytes : Obligations.DecFullChecksNeitherMarkerNorLengthBytes := by
  obtain ⟨hmarker, hlength, hsums⟩ := decodeFull_examples
  refine ⟨fun offset length bytes b s => ⟨_, exec_decFull offset length bytes s, ?_⟩,
    fun noise m v hi lo p s h => ⟨_, rfl, ?_⟩, fun s => ⟨?_, ?_, hsums⟩⟩
  · rw [exec_decFull, decodeFull_set_marker]
  · rw [exec_decFull, decodeFull_span noise m v hi lo h]
    rfl
  · rw [exec_decFull, hmarker]
    rfl
  · rw [exec_decFull, hlength]
    rfl

/-- Settles O16: by the outcome of the header at offset 0. -/
theorem decodeComposesHeaderAndBody : Obligations.DecodeComposesHeaderAndBody := by
  refine fun bytes s => ⟨fun h => ?_, _, exec_decHdr 0 bytes s, ?_⟩
  · exact (decode_packetOf .decode (dataField bytes)).trans (readData_dataField h .decode)
  · cases hh : decodeHeader bytes 0 with
    | error f =>
      rw [exec_decode, decodeFrame_of_header_error hh]
      rfl
    | ok h =>
      refine ⟨_, exec_decFull 0 h.length bytes s, ?_⟩
      rw [exec_decode, decodeFrame_of_header_ok hh]

end Sys2Proof.Machine
end

section
/-!
42_stream_decoder.md R192 and R206: the two operations by which `fault` is met and cleared. A `FEED` while `fault` is 1
is refused; `RESET` is the recovery, and leaves the values of a new instance but for `crc_acc`.
-/

namespace Sys2Proof.Machine

/-! ### `FEED` while `fault` is 1 -/

theorem feedChunk_of_fault (chunk : List Byte) {s : State} (h : s.fault = true) :
    feedChunk chunk s = s.answerFailure .bufferOverflow :=
  if_pos h

/-- Settles O20: a `FEED` tests `fault` before anything else, and its failure has no entry action. -/
theorem feedIsRefusedWhileFaulted : Obligations.FeedIsRefusedWhileFaulted := by
  intro chunk s hfault
  calc exec (.feed chunk) s
      = .next (feedChunk chunk s) := exec_of_fedBytes_eq_some rfl s
    _ = .next { s with outbox := s.outbox ++ [.failed .bufferOverflow] } := by
      rw [feedChunk_of_fault chunk hfault, State.answerFailure_eq]

/-! ### `RESET` -/

theorem exec_reset (s : State) : exec .reset s = .next (s.clearDecoder.respond (.ok .nothing)) := rfl

/-- What `RESET` clears is all that tells the decoder of an instance from a new one's: `scan_cursor` has one value
(10_state.md R23), and `MAX_BUF` and `OBS_EVENTS` are static (70_reset_and_hazards.md R280). -/
theorem State.clearDecoder_eq_create (s : State) :
    s.clearDecoder = { State.create s.maxBuf s.obsEvents with
      crcAcc := s.crcAcc, events := s.events, inbox := s.inbox, outbox := s.outbox } := by
  have hcursor : s.scanCursor = 0 := Subsingleton.elim _ _
  rw [State.clearDecoder_eq, State.create, hcursor]

/-- Settles O25: a packet of format N holds no operand, and the cleared decoder is told by `clearDecoder_eq` and
`clearDecoder_eq_create`. -/
theorem resetClearsTheDecoderState : Obligations.ResetClearsTheDecoderState := by
  refine ⟨decode_packetOf .reset [], rfl, fun s => ⟨?_, ?_⟩⟩
  · rw [exec_reset, State.clearDecoder_eq, State.respond]
  · rw [exec_reset, State.clearDecoder_eq_create, State.respond]

end Sys2Proof.Machine
end

section
/-!
60_exceptions.md R251: the fatal failure. A `FEED` past the bound is refused before a byte of its chunk is taken.
-/

namespace Sys2Proof.Machine

/-- Of the three ways a `FEED` can go, the refusal needs `fault` 1 and the drain a chunk within the bound. -/
theorem feedChunk_of_maxBuf_lt {chunk : List Byte} {s : State} (hfault : s.fault = false)
    (hbound : s.maxBuf < s.buffer.length + chunk.length) : feedChunk chunk s = s.raiseOverflow := by
  rcases feedChunk_cases chunk s with ⟨hfaulted, -⟩ | ⟨-, -, hfeed⟩ | ⟨-, hfits, -⟩
  · exact absurd (hfault.symm.trans hfaulted) Bool.false_ne_true
  · exact hfeed
  · exact absurd hbound (Nat.not_lt.mpr hfits)

/-- Settles O21: the bound test fails before the chunk is appended, and its entry action is `raiseOverflow`. -/
theorem feedPastTheBoundOnlySetsFault : Obligations.FeedPastTheBoundOnlySetsFault := by
  intro chunk s hfault hbound
  calc exec (.feed chunk) s
      = .next (feedChunk chunk s) := exec_of_fedBytes_eq_some rfl s
    _ = .next { s with fault := true, outbox := s.outbox ++ [.failed .bufferOverflow] } := by
      rw [feedChunk_of_maxBuf_lt hfault hbound, State.raiseOverflow_eq]

end Sys2Proof.Machine
end

section
/-!
70_reset_and_hazards.md R281: hardware reset. The values are those `State.create` writes, and no operation needs another
before it, since from every state each of them completes.
-/

namespace Sys2Proof.Machine

/-- Settles O54: each value is read off `State.create`, and that any operation can come first is `exec_completes`. -/
theorem hardwareResetLeavesTheResetValues : Obligations.HardwareResetLeavesTheResetValues := by
  intro maxBuf obs
  have hready : ∀ i : Instr, ∃ t, exec i (State.create maxBuf obs) = .next t := fun i => exec_completes i _
  exact ⟨State.create maxBuf obs, rfl, rfl, rfl, rfl, rfl, rfl, rfl, rfl, rfl, hready⟩

end Sys2Proof.Machine
end

section
/-!
30_encoding.md R92 and R93: encoding and decoding undo each other. Each reader of a field gives back what the field was
written from, and accepts no other bytes than that field's.
-/

namespace Sys2Proof.Machine

/-! ### Decoding an encoding -/

@[simp] theorem headerBytes_length (v : Byte) (l : Word) : (headerBytes v l).length = 4 := rfl

@[simp] theorem trailerBytes_length (c : Word) : (trailerBytes c).length = 3 := rfl

theorem decode_headerBytes (v : Byte) (l : Word) : decode (.wire (headerBytes v l)) = .ok (.frameHeader v l) := by
  refine decode_wire_eq_ok.mpr ⟨by simp [packetFieldBound], ?_⟩
  simp only [headerBytes, be16, decodeWire, if_true, wordOf_extract]

theorem decode_trailerBytes (c : Word) : decode (.wire (trailerBytes c)) = .ok (.frameTrailer c) := by
  refine decode_wire_eq_ok.mpr ⟨by simp [packetFieldBound], ?_⟩
  simp only [trailerBytes, be16, List.cons_append, List.nil_append, decodeWire, if_true, wordOf_extract]

theorem decode_packet_of_reserved {opcode : Byte} (h : operationOf opcode = none) (rest : List Byte) :
    decode (.command (opcode :: rest)) = .ok (.reserved opcode rest) := by
  rw [decode, decodePacket, h]

theorem dataFits_iff (bytes : List Byte) : dataFits bytes = true ↔ bytes.length < 4294967296 :=
  decide_eq_true_iff

theorem offsetFits_iff (offset : Nat) : offsetFits offset = true ↔ offset < 4294967296 :=
  decide_eq_true_iff

/-- Settles O43: by the constructors; the fields of each format are read back in their order. -/
theorem decodeOfEncodeIsTheInstruction : Obligations.DecodeOfEncodeIsTheInstruction := by
  intro i hwf
  have readBack {bytes : List Byte} (hfits : dataFits bytes = true) (mk : List Byte → Instr) :
      readData (dataField bytes) mk = .ok (mk bytes) := readData_dataField ((dataFits_iff bytes).mp hfits) mk
  cases i with
  | csInit | csRead | reset | status => exact decode_packetOf _ []
  | csBlock _ | csUpdate _ | decode _ | feed _ => exact (decode_packetOf _ _).trans (readBack hwf _)
  | encode version payload =>
    exact (decode_packetOf .encode (version :: dataField payload)).trans (readBack hwf (.encode version))
  | decHdr offset bytes =>
    obtain ⟨hoffset, hbytes⟩ := Bool.and_eq_true_iff.mp hwf
    calc decode (encode (.decHdr offset bytes))
        = readOffset (offsetField offset ++ dataField bytes) fun off more => readData more (.decHdr off) :=
          decode_packetOf .decHdr _
      _ = readData (dataField bytes) (.decHdr offset) :=
          readOffset_offsetField ((offsetFits_iff offset).mp hoffset) _ _
      _ = .ok (.decHdr offset bytes) := readBack hbytes _
  | decFull offset length bytes =>
    obtain ⟨hoffset, hbytes⟩ := Bool.and_eq_true_iff.mp hwf
    calc decode (encode (.decFull offset length bytes))
        = readOffset (offsetField offset ++ (be16 length ++ dataField bytes)) fun off more =>
            readLength more fun len more' => readData more' (.decFull off len) := decode_packetOf .decFull _
      _ = readLength (be16 length ++ dataField bytes) fun len more' => readData more' (.decFull offset len) :=
          readOffset_offsetField ((offsetFits_iff offset).mp hoffset) _ _
      _ = readData (dataField bytes) (.decFull offset length) := readLength_be16 length _ _
      _ = .ok (.decFull offset length bytes) := readBack hbytes _
  | reserved opcode rest => exact decode_packet_of_reserved (Option.isNone_iff_eq_none.mp hwf) rest
  | frameHeader version length => exact decode_headerBytes version length
  | frameTrailer checksum => exact decode_trailerBytes checksum

/-! ### The bytes a reader accepts -/

theorem readNothing_eq_ok {rest : List Byte} {i j : Instr} (h : readNothing rest i = .ok j) :
    rest = [] ∧ j = i := by
  cases rest with
  | nil => exact ⟨rfl, (Except.ok.inj h).symm⟩
  | cons b more => cases h

/-- `dlen` and the data are accepted only as they are written for that data (30_encoding.md R92). -/
theorem readData_eq_ok {rest : List Byte} {mk : List Byte → Instr} {i : Instr} (h : readData rest mk = .ok i) :
    ∃ data, dataFits data = true ∧ rest = dataField data ∧ i = mk data := by
  match rest with
  | b3 :: b2 :: b1 :: b0 :: data =>
    rw [readData] at h
    split at h
    case isFalse => cases h
    case isTrue hdlen =>
      refine ⟨data, (dataFits_iff data).mpr ?_, ?_, (Except.ok.inj h).symm⟩
      · rw [← hdlen]; exact BitVec.isLt _
      · rw [dataField, ← hdlen, BitVec.ofNat_toNat, BitVec.setWidth_eq, be32_dwordOf]; rfl
  | [] | [_] | [_, _] | [_, _, _] => cases h

theorem readVersion_eq_ok {rest : List Byte} {k : Byte → List Byte → Except DecodeError Instr} {i : Instr}
    (h : readVersion rest k = .ok i) : ∃ v more, rest = v :: more ∧ k v more = .ok i := by
  match rest with
  | v :: more => exact ⟨v, more, rfl, h⟩
  | [] => cases h

theorem readOffset_eq_ok {rest : List Byte} {k : Nat → List Byte → Except DecodeError Instr} {i : Instr}
    (h : readOffset rest k = .ok i) :
    ∃ offset more, offsetFits offset = true ∧ rest = offsetField offset ++ more ∧ k offset more = .ok i := by
  match rest with
  | b3 :: b2 :: b1 :: b0 :: more =>
    refine ⟨(dwordOf b3 b2 b1 b0).toNat, more, (offsetFits_iff _).mpr (BitVec.isLt _), ?_, h⟩
    rw [offsetField, BitVec.ofNat_toNat, BitVec.setWidth_eq, be32_dwordOf]; rfl
  | [] | [_] | [_, _] | [_, _, _] => cases h

theorem readLength_eq_ok {rest : List Byte} {k : Word → List Byte → Except DecodeError Instr} {i : Instr}
    (h : readLength rest k = .ok i) : ∃ length more, rest = be16 length ++ more ∧ k length more = .ok i := by
  match rest with
  | hi :: lo :: more => exact ⟨wordOf hi lo, more, by rw [be16_wordOf]; rfl, h⟩
  | [] | [_] => cases h

/-- The operands of an operation are accepted only as they are written for a well-formed instruction of it. -/
theorem decodeOperands_eq_ok {o : Operation} {rest : List Byte} {i : Instr} (h : decodeOperands o rest = .ok i) :
    i.WellFormed ∧ encode i = packetOf o rest := by
  cases o with
  | csInit | csRead | reset | status =>
    obtain ⟨rfl, rfl⟩ := readNothing_eq_ok h
    exact ⟨rfl, rfl⟩
  | csBlock | csUpdate | decode | feed =>
    obtain ⟨data, hdata, rfl, rfl⟩ := readData_eq_ok h
    exact ⟨hdata, rfl⟩
  | encode =>
    obtain ⟨v, more, rfl, hk⟩ := readVersion_eq_ok h
    obtain ⟨data, hdata, rfl, rfl⟩ := readData_eq_ok hk
    exact ⟨hdata, rfl⟩
  | decHdr =>
    rw [decodeOperands] at h
    obtain ⟨offset, more, hoffset, rfl, hk⟩ := readOffset_eq_ok h
    obtain ⟨data, hdata, rfl, rfl⟩ := readData_eq_ok hk
    exact ⟨Bool.and_eq_true_iff.mpr ⟨hoffset, hdata⟩, rfl⟩
  | decFull =>
    rw [decodeOperands] at h
    obtain ⟨offset, more, hoffset, rfl, hk⟩ := readOffset_eq_ok h
    obtain ⟨length, more', rfl, hk'⟩ := readLength_eq_ok hk
    obtain ⟨data, hdata, rfl, rfl⟩ := readData_eq_ok hk'
    exact ⟨Bool.and_eq_true_iff.mpr ⟨hoffset, hdata⟩, rfl⟩

/-- Settles O44: a reserved opcode keeps all its bytes; the operands of an assigned one are those of its instruction,
and the opcode is the operation's own. -/
theorem encodeOfDecodeIsThePacket : Obligations.EncodeOfDecodeIsThePacket := by
  intro packet i h
  cases packet with
  | nil => cases h
  | cons opcode rest =>
    cases hop : operationOf opcode with
    | none =>
      obtain rfl : Instr.reserved opcode rest = i := Except.ok.inj ((decode_packet_of_reserved hop rest).symm.trans h)
      exact ⟨Option.isNone_iff_eq_none.mpr hop, rfl⟩
    | some o =>
      rw [← opcodeOf_of_operationOf hop] at h ⊢
      exact decodeOperands_eq_ok ((decode_packetOf o rest).symm.trans h)

/-! ### Wire segments, and what a step runs -/

/-- A wire segment decodes to an instruction of a frame part, or to the `FEED` of its bytes (log 6). -/
theorem decodeWire_cases (segment : List Byte) :
    (∃ v l, decodeWire segment = .frameHeader v l) ∨ (∃ c, decodeWire segment = .frameTrailer c) ∨
    decodeWire segment = .feed segment := by
  unfold decodeWire
  split
  · split
    · exact .inl ⟨_, _, rfl⟩
    · exact .inr (.inr rfl)
  · split
    · exact .inr (.inl ⟨_, rfl⟩)
    · exact .inr (.inr rfl)
  · exact .inr (.inr rfl)

theorem wellFormed_of_decode {input : HostInput} {i : Instr} (h : decode input = .ok i) : i.WellFormed := by
  cases input with
  | command packet => exact (encodeOfDecodeIsThePacket packet i h).1
  | wire segment =>
    obtain ⟨hfits, rfl⟩ := decode_wire_eq_ok.mp h
    rcases decodeWire_cases segment with ⟨v, l, hw⟩ | ⟨c, hw⟩ | hw
    · rw [hw]; rfl
    · rw [hw]; rfl
    · rw [hw]; exact decide_eq_true hfits

theorem fedBytes_length_lt {i : Instr} (hwf : i.WellFormed) {chunk : List Byte} (h : fedBytes i = some chunk) :
    chunk.length < 4294967296 := by
  cases i with
  | feed _ => cases h; exact (dataFits_iff _).mp hwf
  | frameHeader _ _ | frameTrailer _ => cases h; simp
  | _ => cases h

/-- Settles O45: what is decoded is well formed, and a segment past the bound is rejected by the decoder. -/
theorem decodedOperandsFitAPacket : Obligations.DecodedOperandsFitAPacket := by
  refine ⟨fun input i hdec => ?_, fun segment more s hin hlong => ?_⟩
  · have hwf := wellFormed_of_decode hdec
    exact ⟨hwf, fun chunk hfed => Nat.le_of_lt_succ (fedBytes_length_lt hwf hfed)⟩
  · rw [step_of_decode_error hin (decode_wire_too_long hlong), State.answerIllegal_eq]

/-- Settles O48: it is what a step does with a decoded input. -/
theorem stepRunsTheDecodedInstruction : Obligations.StepRunsTheDecodedInstruction :=
  fun _ _ _ _ hin hdec => step_of_decode_ok hin hdec

/-- Settles O49: no input can be taken from an empty channel. -/
theorem stepWithoutInputChangesNothing : Obligations.StepWithoutInputChangesNothing := by
  intro s hin
  rw [step, State.takeInput_nil hin]

/-- Settles O47: the opcode map has 256 entries to look at; each packet and each segment is read by evaluation. -/
theorem wordsDecodeAsTheTablesSay : Obligations.WordsDecodeAsTheTablesSay :=
  ⟨by decide, by decide, by decide, by decide, by decide, by decide⟩

/-- Settles O53: each line is read by evaluation. -/
theorem linesReadAsTheirOperations : Obligations.LinesReadAsTheirOperations := by
  refine ⟨?_, ?_, ?_, ?_, ?_⟩ <;> decide

end Sys2Proof.Machine
end

section
/-!
42_stream_decoder.md R195, R202, R218: the drain loop is the run of its transition table, and has stopped within its
bound. What a run depends on, what it leaves alone, and that bytes behind the buffer can as well come later.
-/

namespace Sys2Proof.Machine

/-! ### Bytes at the front of a sequence -/

theorem u16be_append_left {s : List Byte} {i : Nat} (t : List Byte) (h : i + 1 < s.length) :
    u16be (s ++ t) i = u16be s i := by
  rw [u16be, u16be, byteAt_append_left t (by omega), byteAt_append_left t h]

theorem slice_append_left {s : List Byte} {a b : Nat} (t : List Byte) (h : b ≤ s.length) :
    slice (s ++ t) a b = slice s a b := by
  by_cases hab : a ≤ b
  · rw [slice, slice, List.drop_append_of_le_length (by omega), List.take_append_of_le_length (by simp; omega)]
  · rw [slice, slice, Nat.sub_eq_zero_of_le (by omega), List.take_zero, List.take_zero]

theorem eq_cons_of_byteAt_zero {s : List Byte} (h : byteAt s 0 = 0xAA#8) : ∃ more, s = 0xAA#8 :: more := by
  cases s with
  | nil => cases h
  | cons b more => exact ⟨more, congrArg (· :: more) h⟩

/-! ### `DEC.FULL` at offset 0, by its conditions -/

section
variable {b : List Byte} {l : Word}

theorem decodeFull_of_short (hlen : b.length < 7 + l.toNat) : decodeFull b 0 l = .error .incomplete := by
  rcases decodeFull_cases b l with ⟨-, hd⟩ | ⟨hlen', -⟩ | ⟨hlen', -⟩ | ⟨hlen', -⟩
  · exact hd
  all_goals omega

theorem decodeFull_of_badChecksum (hlen : 7 + l.toNat ≤ b.length)
    (hc : checksum (slice b 1 (4 + l.toNat)) ≠ u16be b (4 + l.toNat)) :
    decodeFull b 0 l = .error .invalidChecksum := by
  rcases decodeFull_cases b l with ⟨hlen', -⟩ | ⟨-, -, hd⟩ | ⟨-, hc', -⟩ | ⟨-, hc', -⟩
  · omega
  · exact hd
  all_goals exact absurd hc' hc

theorem decodeFull_of_badEndMarker (hlen : 7 + l.toNat ≤ b.length)
    (hc : checksum (slice b 1 (4 + l.toNat)) = u16be b (4 + l.toNat)) (he : byteAt b (6 + l.toNat) ≠ 0x55#8) :
    decodeFull b 0 l = .error .invalidEndMarker := by
  rcases decodeFull_cases b l with ⟨hlen', -⟩ | ⟨-, hc', -⟩ | ⟨-, -, -, hd⟩ | ⟨-, -, he', -⟩
  · omega
  · exact absurd hc hc'
  · exact hd
  · exact absurd he' he

theorem decodeFull_of_valid (hlen : 7 + l.toNat ≤ b.length)
    (hc : checksum (slice b 1 (4 + l.toNat)) = u16be b (4 + l.toNat)) (he : byteAt b (6 + l.toNat) = 0x55#8) :
    decodeFull b 0 l = .ok { version := byteAt b 1, length := l, payload := slice b 4 (4 + l.toNat),
                             checksum := u16be b (4 + l.toNat) } := by
  rcases decodeFull_cases b l with ⟨hlen', -⟩ | ⟨-, hc', -⟩ | ⟨-, -, he', -⟩ | ⟨-, -, -, hd⟩
  · omega
  · exact absurd hc hc'
  · exact absurd he he'
  · exact hd

end

/-! ### Each row of the table is a pass -/

section
variable {s : State}

theorem State.absorbFailure_eq_afterRejection (s : State) (f : Failure) :
    s.absorbFailure f = afterRejection s (failureCode f) := by
  cases h : s.obsEvents <;>
    simp [State.absorbFailure_eq, State.event, State.dropFront, State.capture, State.enter, afterRejection, h]

theorem drainPass_of_noMarker (hp : s.phase = .scanning) (hm : 0xAA#8 ∉ s.buffer) :
    drainPass s = .stop { s with buffer := [] } := by
  simp only [drainPass, hp, scanPass, State.scanCursor_val, findMarker_eq_none.mpr hm]
  rw [State.discardAll, hp]

theorem drainPass_of_marker {noise more : List Byte} (hp : s.phase = .scanning)
    (hb : s.buffer = noise ++ 0xAA#8 :: more) (hn : 0xAA#8 ∉ noise) :
    drainPass s = .again { s with buffer := 0xAA#8 :: more, phase := .headerWait } none := by
  simp [drainPass, hp, scanPass, hb, findMarker_append_marker more hn, State.dropFront, State.enter]

theorem drainPass_of_shortHeader (hp : s.phase = .headerWait) (hlen : s.buffer.length < 4) :
    drainPass s = .stop s := by
  rcases drainPass_headerWait hp with ⟨-, hd⟩ | ⟨hlen', -⟩ | ⟨hlen', -⟩
  · exact hd
  all_goals omega

theorem drainPass_of_badMarker (hp : s.phase = .headerWait) (hlen : 4 ≤ s.buffer.length)
    (hm : byteAt s.buffer 0 ≠ 0xAA#8) : drainPass s = .again (afterRejection s 0x02#8) none := by
  rcases drainPass_headerWait hp with ⟨hlen', -⟩ | ⟨-, -, hd⟩ | ⟨-, hm', -⟩
  · omega
  · rw [hd, State.absorbFailure_eq_afterRejection]; rfl
  · exact absurd hm' hm

theorem drainPass_of_header (hp : s.phase = .headerWait) (hlen : 4 ≤ s.buffer.length)
    (hm : byteAt s.buffer 0 = 0xAA#8) :
    drainPass s = .again { s with capLen := u16be s.buffer 2, phase := .bodyWait } none := by
  rcases drainPass_headerWait hp with ⟨hlen', -⟩ | ⟨-, hm', -⟩ | ⟨-, -, hd⟩
  · omega
  · exact absurd hm hm'
  · exact hd

theorem drainPass_of_shortBody (hp : s.phase = .bodyWait) (hlen : s.buffer.length < 7 + s.capLen.toNat) :
    drainPass s = .stop s := by
  simp only [drainPass, hp, bodyPass, decodeFull_of_short hlen]

theorem drainPass_of_badChecksum (hp : s.phase = .bodyWait) (hlen : 7 + s.capLen.toNat ≤ s.buffer.length)
    (hc : checksum (slice s.buffer 1 (4 + s.capLen.toNat)) ≠ u16be s.buffer (4 + s.capLen.toNat)) :
    drainPass s = .again (afterRejection s 0x03#8) none := by
  simp only [drainPass, hp, bodyPass, decodeFull_of_badChecksum hlen hc, State.absorbFailure_eq_afterRejection,
    failureCode]

theorem drainPass_of_badEndMarker (hp : s.phase = .bodyWait) (hlen : 7 + s.capLen.toNat ≤ s.buffer.length)
    (hc : checksum (slice s.buffer 1 (4 + s.capLen.toNat)) = u16be s.buffer (4 + s.capLen.toNat))
    (he : byteAt s.buffer (6 + s.capLen.toNat) ≠ 0x55#8) :
    drainPass s = .again (afterRejection s 0x04#8) none := by
  simp only [drainPass, hp, bodyPass, decodeFull_of_badEndMarker hlen hc he, State.absorbFailure_eq_afterRejection,
    failureCode]

theorem drainPass_of_emit (hp : s.phase = .bodyWait) (hlen : 7 + s.capLen.toNat ≤ s.buffer.length)
    (hc : checksum (slice s.buffer 1 (4 + s.capLen.toNat)) = u16be s.buffer (4 + s.capLen.toNat))
    (he : byteAt s.buffer (6 + s.capLen.toNat) = 0x55#8) :
    drainPass s = .again
      { s with buffer := s.buffer.drop (7 + s.capLen.toNat), capLen := 0#16, phase := .scanning }
      (some (slice s.buffer 4 (4 + s.capLen.toNat))) := by
  simp only [drainPass, hp, bodyPass, decodeFull_of_valid hlen hc he]
  rfl

end

/-! ### The loop is a run of the table -/

/-- A bound on the passes the loop still makes: three for each byte, less those already made for the candidate at the
front (42_stream_decoder.md R202). -/
def passesLeft (s : State) : Nat :=
  3 * s.buffer.length + match s.phase with
    | .scanning => 3
    | .headerWait => 2
    | .bodyWait => 1

theorem passesLeft_pos (s : State) : 1 ≤ passesLeft s := by
  unfold passesLeft; split <;> omega

theorem passesLeft_le (s : State) : passesLeft s ≤ 3 * (s.buffer.length + 1) := by
  unfold passesLeft; split <;> omega

/-- Given as many passes as are left, the loop runs the table and stops. -/
theorem drainLoop_drains (k : Nat) {s : State} (hk : passesLeft s ≤ k) :
    ∃ n, n ≤ k ∧ Drains n s (drainLoop k s).1 (drainLoop k s).2 := by
  induction k generalizing s with
  | zero => exact absurd (passesLeft_pos s) (by omega)
  | succ k ih =>
    have stops {t : State} (hd : Drains 1 s t []) (hp : drainPass s = .stop t) :
        ∃ n, n ≤ k + 1 ∧ Drains n s (drainLoop (k + 1) s).1 (drainLoop (k + 1) s).2 :=
      ⟨1, by omega, by rw [drainLoop_stop hp]; exact hd⟩
    have goesOn {t : State} {e : Option (List Byte)} (hleft : passesLeft t < passesLeft s)
        (hd : ∀ {n u ps}, Drains n t u ps → Drains (n + 1) s u (e.toList ++ ps)) (hp : drainPass s = .again t e) :
        ∃ n, n ≤ k + 1 ∧ Drains n s (drainLoop (k + 1) s).1 (drainLoop (k + 1) s).2 := by
      obtain ⟨n, hn, hrun⟩ := ih (s := t) (by omega)
      exact ⟨n + 1, by omega, by rw [drainLoop_again hp]; exact hd hrun⟩
    cases hp : s.phase with
    | scanning =>
      rcases drainPass_scanning hp with ⟨hm, -⟩ | ⟨noise, more, hb, hn, -⟩
      · exact stops (.noMarker hp hm) (drainPass_of_noMarker hp hm)
      · exact goesOn (by simp [passesLeft, hp, hb]) (.marker noise more hp hb hn)
          (drainPass_of_marker hp hb hn)
    | headerWait =>
      rcases drainPass_headerWait hp with ⟨hlen, -⟩ | ⟨hlen, hm, -⟩ | ⟨hlen, hm, -⟩
      · exact stops (.shortHeader hp hlen) (drainPass_of_shortHeader hp hlen)
      · exact goesOn (by simp [passesLeft, hp, afterRejection]; omega) (.badMarker hp hlen hm)
          (drainPass_of_badMarker hp hlen hm)
      · exact goesOn (by simp [passesLeft, hp]) (.header hp hlen hm) (drainPass_of_header hp hlen hm)
    | bodyWait =>
      rcases drainPass_bodyWait hp with ⟨hlen, -⟩ | ⟨hlen, hc, -⟩ | ⟨hlen, hc, he, -⟩ | ⟨hlen, hc, he, -⟩
      · exact stops (.shortBody hp hlen) (drainPass_of_shortBody hp hlen)
      · exact goesOn (by simp [passesLeft, hp, afterRejection]; omega) (.badChecksum hp hlen hc)
          (drainPass_of_badChecksum hp hlen hc)
      · exact goesOn (by simp [passesLeft, hp, afterRejection]; omega) (.badEndMarker hp hlen hc he)
          (drainPass_of_badEndMarker hp hlen hc he)
      · exact goesOn (by simp [passesLeft, hp]; omega) (.emit hp hlen hc he) (drainPass_of_emit hp hlen hc he)

/-- `Drain()` is a run of the table of at most `3 * (|buffer| + 1)` passes (42_stream_decoder.md R202). -/
theorem drains_drain (s : State) :
    ∃ n, n ≤ 3 * (s.buffer.length + 1) ∧ Drains n s (drain s).1 (drain s).2 :=
  drainLoop_drains _ (passesLeft_le s)

/-- The loop with enough passes ends as the run of the table does. -/
theorem Drains.drainLoop_eq {n : Nat} {s t : State} {ps : List (List Byte)} (h : Drains n s t ps) {k : Nat}
    (hk : n ≤ k) : drainLoop k s = (t, ps) := by
  have goesOn {n k : Nat} {s t u : State} {e : Option (List Byte)} {ps : List (List Byte)} (hk : n + 1 ≤ k)
      (hp : drainPass s = .again u e) (ih : ∀ {k}, n ≤ k → drainLoop k u = (t, ps)) :
      drainLoop k s = (t, e.toList ++ ps) := by
    obtain ⟨k, rfl⟩ : ∃ j, k = j + 1 := ⟨k - 1, by omega⟩
    rw [drainLoop_again hp, ih (by omega)]
  induction h generalizing k with
  | noMarker hp hm =>
    obtain ⟨k, rfl⟩ : ∃ j, k = j + 1 := ⟨k - 1, by omega⟩
    exact drainLoop_stop (drainPass_of_noMarker hp hm)
  | shortHeader hp hlen =>
    obtain ⟨k, rfl⟩ : ∃ j, k = j + 1 := ⟨k - 1, by omega⟩
    exact drainLoop_stop (drainPass_of_shortHeader hp hlen)
  | shortBody hp hlen =>
    obtain ⟨k, rfl⟩ : ∃ j, k = j + 1 := ⟨k - 1, by omega⟩
    exact drainLoop_stop (drainPass_of_shortBody hp hlen)
  | marker noise more hp hb hn _ ih => exact goesOn hk (drainPass_of_marker hp hb hn) ih
  | badMarker hp hlen hm _ ih => exact goesOn hk (drainPass_of_badMarker hp hlen hm) ih
  | header hp hlen hm _ ih => exact goesOn hk (drainPass_of_header hp hlen hm) ih
  | badChecksum hp hlen hc _ ih => exact goesOn hk (drainPass_of_badChecksum hp hlen hc) ih
  | badEndMarker hp hlen hc he _ ih => exact goesOn hk (drainPass_of_badEndMarker hp hlen hc he) ih
  | emit hp hlen hc he _ ih => exact goesOn hk (drainPass_of_emit hp hlen hc he) ih

/-- A run of the table gives what `Drain()` gives; so the table is deterministic. -/
theorem Drains.drain_eq {n : Nat} {s t : State} {ps : List (List Byte)} (h : Drains n s t ps) :
    drain s = (t, ps) := by
  obtain ⟨m, -, hm⟩ := drains_drain s
  exact (hm.drainLoop_eq (le_max_right n m)).symm.trans (h.drainLoop_eq (le_max_left n m))

theorem Drains.unique {n m : Nat} {s t u : State} {ps qs : List (List Byte)} (h : Drains n s t ps)
    (h' : Drains m s u qs) : t = u ∧ ps = qs :=
  Prod.mk.inj (h.drain_eq.symm.trans h'.drain_eq)

/-! ### What a run depends on -/

/-- The state with the decoder's values of `d`: `buffer`, `state` and `cap_len`. -/
def State.withDecoder (s d : State) : State :=
  { s with buffer := d.buffer, phase := d.phase, capLen := d.capLen }

/-- The state with these events recorded, if there is an event stream (30_encoding.md R97). -/
def State.record (s : State) (codes : List Byte) : State :=
  { s with events := if s.obsEvents then s.events ++ codes else s.events }

@[simp] theorem State.record_nil (s : State) : s.record [] = s := by
  rw [State.record, List.append_nil, ite_self]

theorem State.record_cons (s : State) (code : Byte) (codes : List Byte) :
    s.record (code :: codes) = (s.record [code]).record codes := by
  cases h : s.obsEvents <;> simp [State.record, h]

theorem afterRejection_withDecoder (s d : State) (code : Byte) :
    afterRejection (s.withDecoder d) code = (s.record [code]).withDecoder (afterRejection d code) := rfl

theorem Drains.transfer_afterRejection {n : Nat} {d t : State} {ps : List (List Byte)} {code : Byte}
    {codes : List Byte}
    (h : ∀ s : State, Drains n (s.withDecoder (afterRejection d code)) ((s.record codes).withDecoder t) ps)
    (s : State) :
    Drains n (afterRejection (s.withDecoder d) code) ((s.record (code :: codes)).withDecoder t) ps := by
  rw [afterRejection_withDecoder, State.record_cons s code codes]
  exact h (s.record [code])

/-- A run depends on the decoder's values alone, and writes nothing else but its events, which are the same in every
state with these values. -/
theorem Drains.transfer {n : Nat} {d t : State} {ps : List (List Byte)} (h : Drains n d t ps) :
    ∃ codes, ∀ s : State, Drains n (s.withDecoder d) ((s.record codes).withDecoder t) ps := by
  induction h with
  | noMarker hp hm => exact ⟨[], fun s => by rw [State.record_nil]; exact .noMarker hp hm⟩
  | shortHeader hp hlen => exact ⟨[], fun s => by rw [State.record_nil]; exact .shortHeader hp hlen⟩
  | shortBody hp hlen => exact ⟨[], fun s => by rw [State.record_nil]; exact .shortBody hp hlen⟩
  | marker noise more hp hb hn _ ih =>
    obtain ⟨codes, ih⟩ := ih
    exact ⟨codes, fun s => .marker noise more hp hb hn (ih s)⟩
  | header hp hlen hm _ ih =>
    obtain ⟨codes, ih⟩ := ih
    exact ⟨codes, fun s => .header hp hlen hm (ih s)⟩
  | emit hp hlen hc he _ ih =>
    obtain ⟨codes, ih⟩ := ih
    exact ⟨codes, fun s => .emit hp hlen hc he (ih s)⟩
  | badMarker hp hlen hm _ ih =>
    obtain ⟨codes, ih⟩ := ih
    exact ⟨_ :: codes, fun s => .badMarker hp hlen hm (transfer_afterRejection ih s)⟩
  | badChecksum hp hlen hc _ ih =>
    obtain ⟨codes, ih⟩ := ih
    exact ⟨_ :: codes, fun s => .badChecksum hp hlen hc (transfer_afterRejection ih s)⟩
  | badEndMarker hp hlen hc he _ ih =>
    obtain ⟨codes, ih⟩ := ih
    exact ⟨_ :: codes, fun s => .badEndMarker hp hlen hc he (transfer_afterRejection ih s)⟩

/-- A run writes only `buffer`, `state`, `cap_len` and the event stream. -/
theorem Drains.frame {n : Nat} {s t : State} {ps : List (List Byte)} (h : Drains n s t ps) :
    ∃ codes, t = (s.record codes).withDecoder t := by
  obtain ⟨codes, htransfer⟩ := h.transfer
  exact ⟨codes, (h.unique (htransfer s)).1⟩

/-! ### Bytes that come later -/

/-- Noise before the rest of the buffer does not change what the loop does (42_stream_decoder.md R197). -/
theorem Drains.noise {n : Nat} {s t : State} {ps : List (List Byte)} {noise more : List Byte}
    (hp : s.phase = .scanning) (hb : s.buffer = noise ++ more) (hn : 0xAA#8 ∉ noise)
    (h : Drains n { s with buffer := more } t ps) : Drains n s t ps := by
  cases h with
  | noMarker _ hm => exact .noMarker hp (by simpa [hb, hn] using hm)
  | marker noise' more' _ hb' hn' hrun =>
    change more = noise' ++ 0xAA#8 :: more' at hb'
    exact .marker (noise ++ noise') more' hp (by rw [hb, hb', List.append_assoc]) (by simp [hn, hn']) hrun
  | shortHeader hp' | badMarker hp' | header hp' | shortBody hp' | badChecksum hp' | badEndMarker hp' | emit hp' =>
    exact absurd (hp.symm.trans hp') (by decide)

theorem afterRejection_appendChunk {s : State} (h : 1 ≤ s.buffer.length) (code : Byte) (b : List Byte) :
    afterRejection (s.appendChunk b) code = (afterRejection s code).appendChunk b := by
  have hdrop : (s.buffer ++ b).drop 1 = s.buffer.drop 1 ++ b := List.drop_append_of_le_length h
  exact congrArg (fun buffer => { afterRejection s code with buffer := buffer }) hdrop

/-- To drain, then append and drain again, is to append first and drain once: the payloads are the same, in order
(42_stream_decoder.md R208). -/
theorem Drains.append {n : Nat} {s t : State} {ps : List (List Byte)} (h : Drains n s t ps) (b : List Byte) :
    ∀ {m : Nat} {u : State} {qs : List (List Byte)}, Drains m (t.appendChunk b) u qs →
      ∃ k, Drains k (s.appendChunk b) u (ps ++ qs) := by
  induction h with
  | noMarker hp hm => exact fun h' => ⟨_, .noise hp rfl hm h'⟩
  | shortHeader _ _ | shortBody _ _ => exact fun h' => ⟨_, h'⟩
  | marker noise more hp hb hn _ ih =>
    intro m u qs h'
    obtain ⟨k, hk⟩ := ih h'
    exact ⟨k + 1, .marker noise (more ++ b) hp (by simp [hb]) hn hk⟩
  | @badMarker _ s _ _ hp hlen hm _ ih =>
    intro m u qs h'
    obtain ⟨k, hk⟩ := ih h'
    refine ⟨k + 1, .badMarker hp (by simp; omega) ?_ (afterRejection_appendChunk (s := s) (by omega) _ b ▸ hk)⟩
    simpa (disch := omega) only [State.appendChunk_buffer, byteAt_append_left] using hm
  | header hp hlen hm _ ih =>
    intro m u qs h'
    obtain ⟨k, hk⟩ := ih h'
    refine ⟨k + 1, .header hp (by simp; omega) ?_ ?_⟩
    · simpa (disch := omega) only [State.appendChunk_buffer, byteAt_append_left] using hm
    · rw [State.appendChunk_buffer, u16be_append_left b (by omega)]
      exact hk
  | @badChecksum _ s _ _ hp hlen hc _ ih =>
    intro m u qs h'
    obtain ⟨k, hk⟩ := ih h'
    refine ⟨k + 1, .badChecksum hp (by simp; omega) ?_ (afterRejection_appendChunk (s := s) (by omega) _ b ▸ hk)⟩
    simpa (disch := omega) only [State.appendChunk_buffer, State.appendChunk_capLen, slice_append_left,
      u16be_append_left] using hc
  | @badEndMarker _ s _ _ hp hlen hc he _ ih =>
    intro m u qs h'
    obtain ⟨k, hk⟩ := ih h'
    refine ⟨k + 1, .badEndMarker hp (by simp; omega) ?_ ?_ (afterRejection_appendChunk (s := s) (by omega) _ b ▸ hk)⟩
    · simpa (disch := omega) only [State.appendChunk_buffer, State.appendChunk_capLen, slice_append_left,
        u16be_append_left] using hc
    · simpa (disch := omega) only [State.appendChunk_buffer, State.appendChunk_capLen, byteAt_append_left] using he
  | @emit _ s _ _ hp hlen hc he _ ih =>
    intro m u qs h'
    obtain ⟨k, hk⟩ := ih h'
    have hpayload : slice (s.buffer ++ b) 4 (4 + s.capLen.toNat) = slice s.buffer 4 (4 + s.capLen.toNat) :=
      slice_append_left b (by omega)
    rw [List.cons_append, ← hpayload]
    refine ⟨k + 1, .emit (s := s.appendChunk b) hp (by simp; omega) ?_ ?_ ?_⟩
    · simpa (disch := omega) only [State.appendChunk_buffer, State.appendChunk_capLen, slice_append_left,
        u16be_append_left] using hc
    · simpa (disch := omega) only [State.appendChunk_buffer, State.appendChunk_capLen, byteAt_append_left] using he
    · rw [State.appendChunk_buffer, State.appendChunk_capLen, List.drop_append_of_le_length hlen]
      exact hk

end Sys2Proof.Machine
end

section
/-!
42_stream_decoder.md R191 to R194: what a `FEED` does, said by a run of the transition table; 10_state.md R37 to R40:
the invariant that every step keeps.
-/

namespace Sys2Proof.Machine

/-! ### An accepted `FEED` -/

theorem exec_feed (chunk : List Byte) (s : State) : exec (.feed chunk) s = .next (feedChunk chunk s) := rfl

/-- A `FEED` within the bound answers with the payloads of the run of the table (42_stream_decoder.md R194, R195). -/
theorem feedChunk_of_drains {n : Nat} {chunk : List Byte} {s t : State} {ps : List (List Byte)}
    (hfault : s.fault = false) (hfits : s.buffer.length + chunk.length ≤ s.maxBuf)
    (h : Drains n (s.appendChunk chunk) t ps) : feedChunk chunk s = t.respond (.ok (.payloads ps)) := by
  rcases feedChunk_cases chunk s with ⟨hfaulted, -⟩ | ⟨-, hover, -⟩ | ⟨-, -, hfeed⟩
  · exact absurd (hfault.symm.trans hfaulted) Bool.false_ne_true
  · exact absurd hfits (Nat.not_le.mpr hover)
  · rw [hfeed, h.drain_eq]

theorem exec_feed_of_eq {chunk : List Byte} {s t : State} (h : feedChunk chunk s = t) :
    exec (.feed chunk) s = .next t :=
  congrArg _ h

theorem exec_feed_of_drains {n : Nat} {chunk : List Byte} {s t : State} {ps : List (List Byte)}
    (hfault : s.fault = false) (hfits : s.buffer.length + chunk.length ≤ s.maxBuf)
    (h : Drains n (s.appendChunk chunk) t ps) : exec (.feed chunk) s = .next (t.respond (.ok (.payloads ps))) :=
  exec_feed_of_eq (feedChunk_of_drains hfault hfits h)

/-- Settles O22: `Drain()` is a run of the table within its bound, whatever `cap_len` is. -/
theorem feedDrainsAsTheTableSays : Obligations.FeedDrainsAsTheTableSays := by
  intro chunk s hfault hfits _
  obtain ⟨n, hn, hrun⟩ := drains_drain (s.appendChunk chunk)
  exact ⟨n, _, _, hrun, hn, exec_feed_of_drains hfault hfits hrun⟩

/-- The effect of an accepted `FEED` is the same in every state with the decoder's values of `s`. -/
theorem feedChunk_transfer (chunk : List Byte) (s : State) : ∃ (d : State) (codes : List Byte) (ps : List (List Byte)),
    ∀ s' : State, s'.withDecoder s = s' → s'.fault = false → s'.buffer.length + chunk.length ≤ s'.maxBuf →
      feedChunk chunk s' = ((s'.record codes).withDecoder d).respond (.ok (.payloads ps)) := by
  obtain ⟨n, -, hrun⟩ := drains_drain (s.appendChunk chunk)
  obtain ⟨codes, htransfer⟩ := hrun.transfer
  refine ⟨(drain (s.appendChunk chunk)).1, codes, (drain (s.appendChunk chunk)).2, fun s' hsame hfault hfits => ?_⟩
  have happend : s'.withDecoder (s.appendChunk chunk) = s'.appendChunk chunk := by
    rw [← hsame]; rfl
  exact feedChunk_of_drains hfault hfits (by rw [← happend]; exact htransfer s')

/-! ### The invariant inside a run -/

/-- What holds before every pass of the drain loop: `PhaseInv` without what only a stop tells (10_state.md R37 to
R39). -/
def LoopInv (s : State) : Prop :=
  (s.phase = .scanning → s.capLen = 0#16) ∧
  (s.phase = .headerWait → byteAt s.buffer 0 = 0xAA#8 ∧ s.capLen = 0#16) ∧
  (s.phase = .bodyWait → 4 ≤ s.buffer.length ∧ byteAt s.buffer 0 = 0xAA#8 ∧ s.capLen = u16be s.buffer 2)

section
variable {s : State}

theorem loopInv_header (hlen : 4 ≤ s.buffer.length) (hm : byteAt s.buffer 0 = 0xAA#8) :
    LoopInv { s with capLen := u16be s.buffer 2, phase := .bodyWait } :=
  ⟨nofun, nofun, fun _ => ⟨hlen, hm, rfl⟩⟩

theorem loopInv_afterRejection (s : State) (code : Byte) : LoopInv (afterRejection s code) :=
  ⟨fun _ => rfl, nofun, nofun⟩

theorem loopInv_emit (s : State) (buffer : List Byte) :
    LoopInv { s with buffer := buffer, capLen := 0#16, phase := .scanning } :=
  ⟨fun _ => rfl, nofun, nofun⟩

theorem LoopInv.of_scanning (h : LoopInv s) (hp : s.phase = .scanning) : s.capLen = 0#16 := by
  obtain ⟨hscan, -, -⟩ := h
  exact hscan hp

theorem LoopInv.of_headerWait (h : LoopInv s) (hp : s.phase = .headerWait) :
    byteAt s.buffer 0 = 0xAA#8 ∧ s.capLen = 0#16 := by
  obtain ⟨-, hhead, -⟩ := h
  exact hhead hp

theorem LoopInv.of_bodyWait (h : LoopInv s) (hp : s.phase = .bodyWait) :
    4 ≤ s.buffer.length ∧ byteAt s.buffer 0 = 0xAA#8 ∧ s.capLen = u16be s.buffer 2 := by
  obtain ⟨-, -, hbody⟩ := h
  exact hbody hp

theorem LoopInv.marker (h : LoopInv s) (hp : s.phase = .scanning) (more : List Byte) :
    LoopInv { s with buffer := 0xAA#8 :: more, phase := .headerWait } :=
  ⟨nofun, fun _ => ⟨rfl, h.of_scanning hp⟩, nofun⟩

/-- The marker test of `HEADER_WAIT` never fails (42_stream_decoder.md R198). -/
theorem LoopInv.byteAt_zero (h : LoopInv s) (hp : s.phase = .headerWait) : byteAt s.buffer 0 = 0xAA#8 :=
  (h.of_headerWait hp).1

/-- Between operations and after an append the loop can start. -/
theorem PhaseInv.loopInv_appendChunk (h : PhaseInv s) (chunk : List Byte) : LoopInv (s.appendChunk chunk) := by
  obtain ⟨hscan, hhead, hbody⟩ := h
  refine ⟨fun hp => (hscan hp).2, fun hp => ?_, fun hp => ?_⟩
  · obtain ⟨hpos, -, hm, hcap⟩ := hhead hp
    exact ⟨by rw [State.appendChunk_buffer, byteAt_append_left chunk hpos, hm], hcap⟩
  · obtain ⟨hlen, -, hm, hcap⟩ := hbody hp
    refine ⟨by simp; omega, ?_, ?_⟩
    · rw [State.appendChunk_buffer, byteAt_append_left chunk (by omega), hm]
    · rw [State.appendChunk_buffer, u16be_append_left chunk (by omega), State.appendChunk_capLen, hcap]

end

/-- Where a run stops, the state between operations is as 10_state.md R37 to R39 say. -/
theorem Drains.phaseInv {n : Nat} {s t : State} {ps : List (List Byte)} (h : Drains n s t ps) (hs : LoopInv s) :
    PhaseInv t := by
  induction h with
  | noMarker hp _ => exact ⟨fun _ => ⟨rfl, hs.of_scanning hp⟩, fun hp' => absurd (hp.symm.trans hp') (by decide),
      fun hp' => absurd (hp.symm.trans hp') (by decide)⟩
  | @shortHeader s hp hlen =>
    obtain ⟨hm, hcap⟩ := hs.of_headerWait hp
    obtain ⟨more, hb⟩ := eq_cons_of_byteAt_zero hm
    have hpos : 1 ≤ s.buffer.length := by rw [hb]; simp
    exact ⟨fun hp' => absurd (hp.symm.trans hp') (by decide), fun _ => ⟨hpos, by omega, hm, hcap⟩,
      fun hp' => absurd (hp.symm.trans hp') (by decide)⟩
  | shortBody hp hlen =>
    obtain ⟨h4, hm, hcap⟩ := hs.of_bodyWait hp
    exact ⟨fun hp' => absurd (hp.symm.trans hp') (by decide), fun hp' => absurd (hp.symm.trans hp') (by decide),
      fun _ => ⟨h4, hlen, hm, hcap⟩⟩
  | marker _ more hp _ _ _ ih => exact ih (hs.marker hp more)
  | header _ hlen hm _ ih => exact ih (loopInv_header hlen hm)
  | badMarker _ _ _ _ ih | badChecksum _ _ _ _ ih | badEndMarker _ _ _ _ _ ih => exact ih (loopInv_afterRejection _ _)
  | emit _ _ _ _ _ ih => exact ih (loopInv_emit _ _)

theorem eventsInv_afterRejection {s : State} (h : EventsInv s) {code : Byte} (hcode : code = 0x03#8 ∨ code = 0x04#8) :
    EventsInv (afterRejection s code) := by
  obtain ⟨hnone, hcodes⟩ := h
  cases hobs : s.obsEvents with
  | false => simp [EventsInv, afterRejection, hobs, hnone hobs]
  | true =>
    simp only [EventsInv, afterRejection, hobs, if_true, List.mem_append, List.mem_singleton]
    exact ⟨nofun, fun e he => he.elim (hcodes e) fun heq => heq ▸ hcode⟩

/-- A run records no event but those of a wrong checksum and of a wrong end marker (30_encoding.md R97). -/
theorem Drains.eventsInv {n : Nat} {s t : State} {ps : List (List Byte)} (h : Drains n s t ps) (hs : LoopInv s)
    (he : EventsInv s) : EventsInv t := by
  induction h with
  | noMarker _ _ | shortHeader _ _ | shortBody _ _ => exact he
  | marker _ more hp _ _ _ ih => exact ih (hs.marker hp more) he
  | header _ hlen hm _ ih => exact ih (loopInv_header hlen hm) he
  | badMarker hp _ hm _ _ => exact absurd (hs.byteAt_zero hp) hm
  | badChecksum _ _ _ _ ih => exact ih (loopInv_afterRejection _ _) (eventsInv_afterRejection he (.inl rfl))
  | badEndMarker _ _ _ _ _ ih => exact ih (loopInv_afterRejection _ _) (eventsInv_afterRejection he (.inr rfl))
  | emit _ _ _ _ _ ih => exact ih (loopInv_emit _ _) he

/-- A run leaves no more bytes than it found. -/
theorem Drains.buffer_length_le {n : Nat} {s t : State} {ps : List (List Byte)} (h : Drains n s t ps) :
    t.buffer.length ≤ s.buffer.length := by
  obtain ⟨k, p, c, e, hloop⟩ := drainLoop_frame n s
  have ht : t = _ := (congrArg Prod.fst (h.drainLoop_eq (Nat.le_refl n))).symm.trans hloop
  simp [ht]

theorem Drains.maxBuf_eq {n : Nat} {s t : State} {ps : List (List Byte)} (h : Drains n s t ps) :
    t.maxBuf = s.maxBuf := by
  obtain ⟨codes, hframe⟩ := h.frame
  exact (congrArg State.maxBuf hframe).trans rfl

theorem Drains.outbox_eq {n : Nat} {s t : State} {ps : List (List Byte)} (h : Drains n s t ps) :
    t.outbox = s.outbox := by
  obtain ⟨codes, hframe⟩ := h.frame
  exact (congrArg State.outbox hframe).trans rfl

theorem Drains.fault_eq {n : Nat} {s t : State} {ps : List (List Byte)} (h : Drains n s t ps) :
    t.fault = s.fault := by
  obtain ⟨codes, hframe⟩ := h.frame
  exact (congrArg State.fault hframe).trans rfl

/-! ### The invariant between operations -/

theorem inv_feedChunk {s : State} (h : Inv s) (chunk : List Byte) : Inv (feedChunk chunk s) := by
  obtain ⟨hphase, hwf, hevents⟩ := h
  rcases feedChunk_cases chunk s with ⟨-, hfeed⟩ | ⟨-, -, hfeed⟩ | ⟨hfault, hfits, -⟩
  · rw [hfeed]; exact ⟨hphase, hwf, hevents⟩
  · rw [hfeed]; exact ⟨hphase, hwf, hevents⟩
  · obtain ⟨n, -, hrun⟩ := drains_drain (s.appendChunk chunk)
    have hloop := hphase.loopInv_appendChunk chunk
    rw [feedChunk_of_drains hfault hfits hrun]
    refine ⟨hrun.phaseInv hloop, (Memory.wf_iff _ _).mpr ?_, hrun.eventsInv hloop hevents⟩
    calc (drain (s.appendChunk chunk)).1.buffer.length
        ≤ (s.appendChunk chunk).buffer.length := hrun.buffer_length_le
      _ ≤ s.maxBuf := by simpa using hfits
      _ = (drain (s.appendChunk chunk)).1.maxBuf := hrun.maxBuf_eq.symm

theorem inv_clearDecoder {s : State} (h : Inv s) : Inv s.clearDecoder := by
  obtain ⟨-, -, hevents⟩ := h
  exact ⟨⟨fun _ => ⟨rfl, rfl⟩, nofun, nofun⟩, Memory.wf_nil _, hevents⟩

theorem exec_keeps_inv (i : Instr) {s : State} (h : Inv s) : ∃ t, exec i s = .next t ∧ Inv t := by
  cases hfed : fedBytes i with
  | some chunk => exact ⟨_, exec_of_fedBytes_eq_some hfed s, inv_feedChunk h chunk⟩
  | none =>
    by_cases hreset : i = .reset
    · subst hreset
      have hcleared : Inv s.clearDecoder := inv_clearDecoder h
      exact ⟨_, exec_reset s, hcleared⟩
    · obtain ⟨crc, r, hexec⟩ := exec_of_fedBytes_eq_none hfed hreset s
      exact ⟨_, hexec, h⟩

/-- Settles O56: taking an input and answering `IllegalCommand` leave the invariant's fields alone, and every
instruction keeps it. -/
theorem stepKeepsTheInvariant : Obligations.StepKeepsTheInvariant := by
  intro s h
  cases hin : s.inbox with
  | nil => exact ⟨s, stepWithoutInputChangesNothing s hin, h⟩
  | cons input more =>
    have htaken : Inv { s with inbox := more } := h
    cases hdec : Sys2Proof.decode input with
    | error e => exact ⟨_, step_of_decode_error hin hdec, htaken⟩
    | ok i =>
      obtain ⟨t, hexec, ht⟩ := exec_keeps_inv i htaken
      exact ⟨t, (step_of_decode_ok hin hdec).trans hexec, ht⟩

theorem inv_create (maxBuf : Nat) (obs : Bool) : Inv (State.create maxBuf obs) :=
  ⟨⟨fun _ => ⟨rfl, rfl⟩, nofun, nofun⟩, Memory.wf_create maxBuf obs, fun _ => rfl, nofun⟩

/-- Settles O55: the machine is created in `SCANNING`, with no byte and no event. -/
theorem invariantHoldsAfterReset : Obligations.InvariantHoldsAfterReset :=
  ⟨inv_create _ _, inv_create⟩

/-- A held candidate lacks a byte of at most `7 + 65535` (10_state.md R40). -/
theorem PhaseInv.buffer_length_le {s : State} (h : PhaseInv s) : s.buffer.length ≤ 65541 := by
  obtain ⟨hscan, hhead, hbody⟩ := h
  cases hp : s.phase with
  | scanning => simp [(hscan hp).1]
  | headerWait => obtain ⟨-, hlen, -⟩ := hhead hp; omega
  | bodyWait => obtain ⟨-, hlen, -⟩ := hbody hp; omega

/-- Settles O57: outside `BODY_WAIT` the invariant gives `cap_len` itself. -/
theorem bufferStaysWithinItsBounds : Obligations.BufferStaysWithinItsBounds := by
  rintro s ⟨hphase, hwf, -⟩
  refine ⟨s.scanCursor_val, le_min ((Memory.wf_iff _ _).mp hwf) hphase.buffer_length_le, fun hnot => ?_⟩
  obtain ⟨hscan, hhead, -⟩ := hphase
  cases hp : s.phase with
  | scanning => exact (hscan hp).2
  | headerWait => obtain ⟨-, -, -, hcap⟩ := hhead hp; exact hcap
  | bodyWait => exact absurd hp hnot

/-! ### What the invariant says of a `FEED` -/

/-- Between operations the loop has nothing left to do (42_stream_decoder.md R194). -/
theorem PhaseInv.drains_self {s : State} (h : PhaseInv s) : Drains 1 s s [] := by
  obtain ⟨hscan, hhead, hbody⟩ := h
  cases hp : s.phase with
  | scanning =>
    have hb : s.buffer = [] := (hscan hp).1
    have hrun : Drains 1 s { s with buffer := [] } [] := .noMarker hp (by simp [hb])
    rwa [← hb] at hrun
  | headerWait => obtain ⟨-, hlen, -⟩ := hhead hp; exact .shortHeader hp (by omega)
  | bodyWait => obtain ⟨-, hlen, -⟩ := hbody hp; exact .shortBody hp hlen

theorem State.appendChunk_nil (s : State) : s.appendChunk [] = s := by
  rw [State.appendChunk, List.append_nil]

/-- Settles O24: an append of nothing changes nothing, and the loop stops at once. -/
theorem emptyFeedChangesNothing : Obligations.EmptyFeedChangesNothing := by
  rintro s ⟨hphase, hwf, -⟩ hfault
  have hrun : Drains 1 (s.appendChunk []) s [] := by rw [s.appendChunk_nil]; exact hphase.drains_self
  exact exec_feed_of_drains hfault ((Memory.wf_iff _ _).mp hwf) hrun

/-- Settles O34: beside the at most 65541 bytes held the chunk fits. -/
theorem smallEnoughChunkIsAccepted : Obligations.SmallEnoughChunkIsAccepted := by
  rintro chunk s ⟨hphase, -, -⟩ hfault hsmall
  have hheld := hphase.buffer_length_le
  obtain ⟨n, -, hrun⟩ := drains_drain (s.appendChunk chunk)
  refine ⟨_, (drain (s.appendChunk chunk)).2, exec_feed_of_drains hfault (by omega) hrun, ?_, ?_⟩
  · rw [State.respond_fault, hrun.fault_eq, State.appendChunk_fault, hfault]
  · rw [State.respond_outbox, hrun.outbox_eq, State.appendChunk_outbox]

/-- The frame of an emitted payload was in the buffer. -/
theorem Drains.payload_length_le {n : Nat} {s t : State} {ps : List (List Byte)} (h : Drains n s t ps) :
    ∀ p ∈ ps, 7 + p.length ≤ s.buffer.length := by
  induction h with
  | noMarker _ _ | shortHeader _ _ | shortBody _ _ => exact nofun
  | marker noise more _ hb _ _ ih => exact fun p hp => (ih p hp).trans (by simp [hb])
  | header _ _ _ _ ih => exact ih
  | badMarker _ _ _ _ ih | badChecksum _ _ _ _ ih | badEndMarker _ _ _ _ _ ih =>
    exact fun p hp => (ih p hp).trans (by simp [afterRejection])
  | emit _ hlen _ _ _ ih =>
    intro p hp
    rcases List.mem_cons.mp hp with rfl | hp
    · rw [slice_length]; omega
    · exact (ih p hp).trans (by simp)

/-! ### Every operation -/

/-- One response is added, and the inputs waiting and the static parameters stay (30_encoding.md R91; 10_state.md
R27). -/
def AnswersOnce (s t : State) : Prop :=
  ∃ r, t.inbox = s.inbox ∧ t.outbox = s.outbox ++ [r] ∧ t.maxBuf = s.maxBuf ∧ t.obsEvents = s.obsEvents

theorem feedChunk_answersOnce (chunk : List Byte) (s : State) : AnswersOnce s (feedChunk chunk s) := by
  rcases feedChunk_cases chunk s with ⟨-, hfeed⟩ | ⟨-, -, hfeed⟩ | ⟨hfault, hfits, -⟩
  · rw [hfeed]; exact ⟨_, rfl, rfl, rfl, rfl⟩
  · rw [hfeed]; exact ⟨_, rfl, rfl, rfl, rfl⟩
  · obtain ⟨d, codes, ps, htransfer⟩ := feedChunk_transfer chunk s
    rw [htransfer s rfl hfault hfits]
    exact ⟨_, rfl, rfl, rfl, rfl⟩

theorem exec_answersOnce (i : Instr) (s : State) : ∃ t, exec i s = .next t ∧ AnswersOnce s t := by
  cases hfed : fedBytes i with
  | some chunk => exact ⟨_, exec_of_fedBytes_eq_some hfed s, feedChunk_answersOnce chunk s⟩
  | none =>
    by_cases hreset : i = .reset
    · subst hreset
      exact ⟨_, exec_reset s, _, rfl, rfl, rfl, rfl⟩
    · obtain ⟨crc, r, hexec⟩ := exec_of_fedBytes_eq_none hfed hreset s
      exact ⟨_, hexec, r, rfl, rfl, rfl, rfl⟩

/-- Settles O50: an input that is no instruction gets the one response `IllegalCommand`, any other that of its
instruction. -/
theorem everyInputGetsExactlyOneResponse : Obligations.EveryInputGetsExactlyOneResponse := by
  intro s input more hin
  cases hdec : Sys2Proof.decode input with
  | error e => exact ⟨_, _, step_of_decode_error hin hdec, rfl, rfl, rfl, rfl⟩
  | ok i =>
    obtain ⟨t, hexec, r, hinbox, houtbox, hstatic⟩ := exec_answersOnce i { s with inbox := more }
    exact ⟨t, r, (step_of_decode_ok hin hdec).trans hexec, hinbox, houtbox, hstatic⟩

/-- Settles O35: an emitted payload's frame was in the buffer, which the bound test kept within `MAX_BUF`. -/
theorem noFrameLargerThanTheBoundIsEmitted : Obligations.NoFrameLargerThanTheBoundIsEmitted := by
  intro chunk s _
  rcases feedChunk_cases chunk s with ⟨-, hfeed⟩ | ⟨-, -, hfeed⟩ | ⟨hfault, hfits, -⟩
  · exact ⟨_, _, exec_feed_of_eq hfeed, rfl, nofun⟩
  · exact ⟨_, _, exec_feed_of_eq hfeed, rfl, nofun⟩
  · obtain ⟨n, -, hrun⟩ := drains_drain (s.appendChunk chunk)
    refine ⟨_, _, exec_feed_of_drains hfault hfits hrun, congrArg (· ++ _) hrun.outbox_eq, ?_⟩
    rintro ps hps p hp
    obtain rfl : (drain (s.appendChunk chunk)).2 = ps := by cases hps; rfl
    exact (hrun.payload_length_le p hp).trans (by simpa using hfits)

/-- Settles O23: a refused and an overflowing `FEED` keep the buffer, and a run of the drain loop only drops bytes from
the front of it. -/
theorem feedWritesOnlyTheDecoder : Obligations.FeedWritesOnlyTheDecoder := by
  refine fun chunk s => ⟨fun hlen => ?_, ?_⟩
  · exact (decode_packetOf .feed (dataField chunk)).trans (readData_dataField hlen .feed)
  · have unchanged : s.events = s.events ++ [] := (List.append_nil _).symm
    rcases feedChunk_cases chunk s with ⟨-, hfeed⟩ | ⟨-, -, hfeed⟩ | ⟨hfault, hfits, hfeed⟩
    · refine ⟨s.buffer, s.phase, s.capLen, s.fault, [], .failed .bufferOverflow, ?_, .inl rfl⟩
      rw [← unchanged]; exact exec_feed_of_eq hfeed
    · refine ⟨s.buffer, s.phase, s.capLen, true, [], .failed .bufferOverflow, ?_, .inl rfl⟩
      rw [← unchanged]; exact exec_feed_of_eq hfeed
    · obtain ⟨n, p, c, e, hloop⟩ :=
        drainLoop_frame (3 * ((s.appendChunk chunk).buffer.length + 1)) (s.appendChunk chunk)
      refine ⟨(s.buffer ++ chunk).drop n, p, c, s.fault, e, .ok (.payloads (drain (s.appendChunk chunk)).2), ?_,
        .inr (List.drop_suffix _ _)⟩
      rw [exec_feed, hfeed, drain, hloop]
      rfl

/-- Settles O36: a `FEED` ends with `fault` 1 if it was refused or overflowed, `RESET` clears it, and no other operation
writes it. -/
theorem faultIsStickyUntilReset : Obligations.FaultIsStickyUntilReset := by
  intro i s
  cases hfed : fedBytes i with
  | some chunk =>
    have hreset : i ≠ .reset := by rintro rfl; cases hfed
    refine ⟨_, exec_of_fedBytes_eq_some hfed s, ?_⟩
    simp only [Option.some.injEq, exists_eq_left', hreset, ne_eq, not_false_eq_true, and_true]
    rcases feedChunk_cases chunk s with ⟨hfault, hfeed⟩ | ⟨-, hover, hfeed⟩ | ⟨hfault, hfits, hfeed⟩
    · simp [hfeed, State.answerFailure_eq, hfault]
    · simp [hfeed, State.raiseOverflow_eq, hover]
    · simp [hfeed, hfault, hfits]
  | none =>
    by_cases hreset : i = .reset
    · subst hreset
      exact ⟨_, exec_reset s, by simp [State.clearDecoder_eq]⟩
    · obtain ⟨crc, r, hexec⟩ := exec_of_fedBytes_eq_none hfed hreset s
      exact ⟨_, hexec, by simp [hreset]⟩

/-! ### Noninterference -/

/-- What a `FEED` does with another value in `crc_acc` is the same but for that value. -/
theorem feedChunk_withCrcAcc (chunk : List Byte) (s : State) (c : Word) :
    feedChunk chunk { s with crcAcc := c } = { feedChunk chunk s with crcAcc := c } := by
  rcases feedChunk_cases chunk s with ⟨hfault, hfeed⟩ | ⟨hfault, hover, hfeed⟩ | ⟨hfault, hfits, -⟩
  · rw [hfeed]; exact feedChunk_of_fault chunk hfault
  · rw [hfeed]; exact feedChunk_of_maxBuf_lt hfault hover
  · obtain ⟨d, codes, ps, htransfer⟩ := feedChunk_transfer chunk s
    rw [htransfer s rfl hfault hfits]
    exact htransfer _ rfl hfault hfits

theorem feedChunk_crcAcc (chunk : List Byte) (s : State) : (feedChunk chunk s).crcAcc = s.crcAcc :=
  (congrArg State.crcAcc (feedChunk_withCrcAcc chunk s s.crcAcc)).trans rfl

/-- Settles O9: a `FEED` depends on the decoder's values and the bound alone, and the other operations concerned do not
look at the state. -/
theorem noOtherOperationTouchesTheAccumulator : Obligations.NoOtherOperationTouchesTheAccumulator := by
  intro i s c hunused
  have feeds {i : Instr} {chunk : List Byte} (hfed : fedBytes i = some chunk) :
      ∃ t, exec i s = .next t ∧ t.crcAcc = s.crcAcc ∧
        exec i { s with crcAcc := c } = .next { t with crcAcc := c } := by
    refine ⟨_, exec_of_fedBytes_eq_some hfed s, feedChunk_crcAcc chunk s, ?_⟩
    rw [exec_of_fedBytes_eq_some hfed, feedChunk_withCrcAcc]
  cases i with
  | csInit | csUpdate _ | csRead | status => cases hunused
  | csBlock _ | reset | reserved _ _ => exact ⟨_, rfl, rfl, rfl⟩
  | encode v p => exact ⟨_, exec_encode v p s, rfl, exec_encode v p _⟩
  | decHdr o b => exact ⟨_, exec_decHdr o b s, rfl, exec_decHdr o b _⟩
  | decFull o l b => exact ⟨_, exec_decFull o l b s, rfl, exec_decFull o l b _⟩
  | decode b => exact ⟨_, exec_decode b s, rfl, exec_decode b _⟩
  | feed _ | frameHeader _ _ | frameTrailer _ => exact feeds rfl

/-- What a `FEED` does with another event stream, present or not, is the same but for that stream. -/
theorem feedChunk_withEvents (chunk : List Byte) (s : State) (obs : Bool) (evs : List Byte) :
    ∃ evs', feedChunk chunk { s with obsEvents := obs, events := evs } =
        { feedChunk chunk s with obsEvents := obs, events := evs' } ∧ (obs = false → evs' = evs) := by
  rcases feedChunk_cases chunk s with ⟨hfault, hfeed⟩ | ⟨hfault, hover, hfeed⟩ | ⟨hfault, hfits, -⟩
  · exact ⟨evs, by rw [hfeed]; exact feedChunk_of_fault chunk hfault, fun _ => rfl⟩
  · exact ⟨evs, by rw [hfeed]; exact feedChunk_of_maxBuf_lt hfault hover, fun _ => rfl⟩
  · obtain ⟨d, codes, ps, htransfer⟩ := feedChunk_transfer chunk s
    refine ⟨if obs then evs ++ codes else evs, ?_, fun hobs => by rw [hobs]; rfl⟩
    rw [htransfer s rfl hfault hfits]
    exact htransfer _ rfl hfault hfits

/-- Settles O38: a `FEED` adds to the event stream without reading it, and no other operation looks at it. -/
theorem eventStreamInfluencesNothing : Obligations.EventStreamInfluencesNothing := by
  intro i s obs evs
  have feeds {i : Instr} {chunk : List Byte} (hfed : fedBytes i = some chunk) :
      ∃ t evs', exec i s = .next t ∧
        exec i { s with obsEvents := obs, events := evs } = .next { t with obsEvents := obs, events := evs' } ∧
        (obs = false → evs' = evs) := by
    obtain ⟨evs', hfeed, hnone⟩ := feedChunk_withEvents chunk s obs evs
    refine ⟨_, evs', exec_of_fedBytes_eq_some hfed s, ?_, hnone⟩
    rw [exec_of_fedBytes_eq_some hfed, hfeed]
  cases i with
  | csBlock _ | csInit | csUpdate _ | csRead | reset | status | reserved _ _ =>
    exact ⟨_, evs, rfl, rfl, fun _ => rfl⟩
  | encode v p => exact ⟨_, evs, exec_encode v p s, exec_encode v p _, fun _ => rfl⟩
  | decHdr o b => exact ⟨_, evs, exec_decHdr o b s, exec_decHdr o b _, fun _ => rfl⟩
  | decFull o l b => exact ⟨_, evs, exec_decFull o l b s, exec_decFull o l b _, fun _ => rfl⟩
  | decode b => exact ⟨_, evs, exec_decode b s, exec_decode b _, fun _ => rfl⟩
  | feed _ | frameHeader _ _ | frameTrailer _ => exact feeds rfl

/-- Settles O19: each of the eight operations only responds. -/
theorem pureOperationsChangeNoState : Obligations.PureOperationsChangeNoState := by
  intro i s hpure
  cases i with
  | csBlock _ | csRead | status | reserved _ _ => exact ⟨_, _, rfl, rfl, fun _ => rfl⟩
  | encode v p => exact ⟨_, _, exec_encode v p s, rfl, fun _ => rfl⟩
  | decHdr o b => exact ⟨_, _, exec_decHdr o b s, rfl, fun _ => rfl⟩
  | decFull o l b => exact ⟨_, _, exec_decFull o l b s, rfl, fun _ => rfl⟩
  | decode b => exact ⟨_, _, exec_decode b s, rfl, fun _ => rfl⟩
  | csInit | csUpdate _ | feed _ | reset | frameHeader _ _ | frameTrailer _ => cases hpure

/-- Settles O39: the arm of `exec` does not look at the bytes. -/
theorem reservedOpcodeAnswersIllegalCommand : Obligations.ReservedOpcodeAnswersIllegalCommand :=
  fun _ _ _ => rfl

/-- Settles O40: the bytes of a frame part, fed as a chunk, are those its arm of `exec` feeds. -/
theorem framePartsAreFeedsOfTheirBytes : Obligations.FramePartsAreFeedsOfTheirBytes :=
  ⟨fun v l s => ⟨_, exec_feed _ s, exec_of_fedBytes_eq_some (i := .frameHeader v l) rfl s⟩,
    fun c s => ⟨_, exec_feed _ s, exec_of_fedBytes_eq_some (i := .frameTrailer c) rfl s⟩⟩

end Sys2Proof.Machine
end

section
/-!
40_checksum.md R129, R134, R138: the streaming law, the two forms of the checksum, and the residue. The bit step is
linear over XOR and takes only 0 to 0; two byte steps over the bytes of `x` are sixteen bit steps from `c XOR x`.
-/

namespace Sys2Proof.Machine

/-! ### The streaming law -/

theorem crcFold_append (c : Word) (s t : List Byte) : crcFold c (s ++ t) = crcFold (crcFold c s) t :=
  List.foldl_append

/-- Settles O2: the fold of a concatenation. -/
theorem checksumOfAppendContinuesTheFold : Obligations.ChecksumOfAppendContinuesTheFold :=
  fun c s t => ⟨crcFold_append c s t, crcFold_append Config.crcInit s t⟩

/-! ### The residue -/

theorem crcBit_xor (a b : Word) : crcBit (a ^^^ b) = crcBit a ^^^ crcBit b := by
  have hpoly (x y : Word) : (x ^^^ Config.crcPoly) ^^^ (y ^^^ Config.crcPoly) = x ^^^ y := by
    rw [BitVec.xor_assoc, BitVec.xor_comm y, ← BitVec.xor_assoc Config.crcPoly, BitVec.xor_self, BitVec.zero_xor]
  simp only [crcBit, BitVec.getLsbD_xor, BitVec.shiftLeft_xor_distrib]
  cases a.getLsbD 15 <;> cases b.getLsbD 15
  · rfl
  · exact BitVec.xor_assoc _ _ _
  · simp only [Bool.true_xor, Bool.not_false, if_true, Bool.false_eq_true, if_false]
    rw [BitVec.xor_assoc, BitVec.xor_assoc, BitVec.xor_comm Config.crcPoly]
  · exact (hpoly _ _).symm

/-- The polynomial has bit 0 set, and a shift leaves it clear: no information is lost. -/
theorem crcBit_eq_zero {c : Word} (h : crcBit c = 0#16) : c = 0#16 := by
  cases htop : c.getLsbD 15 with
  | true =>
    have hbit0 := congrArg (BitVec.getLsbD · 0) h
    simp [crcBit, htop, Config.crcPoly] at hbit0
  | false =>
    simp only [crcBit, htop, Bool.false_eq_true, if_false] at h
    have hdouble := congrArg BitVec.toNat h
    have hlow : 2 * c.toNat < 2 ^ 16 :=
      BitVec.msb_eq_false_iff_two_mul_lt.mp (by rw [BitVec.msb_eq_getLsbD_last]; exact htop)
    apply BitVec.eq_of_toNat_eq
    simp [BitVec.toNat_shiftLeft, Nat.shiftLeft_eq] at hdouble ⊢
    omega

theorem repeat_crcBit_xor (k : Nat) (a b : Word) :
    Nat.repeat crcBit k (a ^^^ b) = Nat.repeat crcBit k a ^^^ Nat.repeat crcBit k b := by
  induction k with
  | zero => rfl
  | succ k ih => simp only [Nat.repeat, ih, crcBit_xor]

theorem repeat_crcBit_eq_zero_iff (k : Nat) (c : Word) : Nat.repeat crcBit k c = 0#16 ↔ c = 0#16 := by
  induction k with
  | zero => rfl
  | succ k ih =>
    constructor
    · exact fun h => ih.mp (crcBit_eq_zero h)
    · intro h
      rw [Nat.repeat, ih.mpr h]
      decide

/-- The bits of a byte reach bit 15 only after eight shifts. -/
theorem repeat_crcBit_zeroExtend (b : Byte) {k : Nat} (hk : k ≤ 8) :
    Nat.repeat crcBit k (b.zeroExtend 16) = b.zeroExtend 16 <<< k := by
  induction k with
  | zero => simp [Nat.repeat]
  | succ k ih =>
    have htop : (b.zeroExtend 16 <<< k).getLsbD 15 = false := by
      have : b.getLsbD (15 - k) = false := BitVec.getLsbD_of_ge b _ (by omega)
      simp [this]
    rw [Nat.repeat, ih (by omega), crcBit, htop, if_neg Bool.false_ne_true, ← BitVec.shiftLeft_add]

theorem xor_bytes (x : Word) :
    ((x.extractLsb' 8 8).zeroExtend 16 <<< 8) ^^^ (x.extractLsb' 0 8).zeroExtend 16 = x := by
  ext i hi
  by_cases hlow : i < 8
  · simp [hlow, BitVec.getLsbD_eq_getElem hi]
  · have hindex : 8 + (i - 8) = i := by omega
    have hhigh : i - 8 < 8 := by omega
    simp [hlow, hhigh, hindex, BitVec.getLsbD_eq_getElem hi]

/-- Folding the two bytes of `x` is sixteen bit steps from `c XOR x`. -/
theorem crcFold_be16 (c x : Word) :
    crcFold c (be16 x) = Nat.repeat crcBit 8 (Nat.repeat crcBit 8 (c ^^^ x)) := by
  calc crcFold c (be16 x)
      = Nat.repeat crcBit 8 (Nat.repeat crcBit 8 (c ^^^ ((x.extractLsb' 8 8).zeroExtend 16 <<< 8)) ^^^
          ((x.extractLsb' 0 8).zeroExtend 16 <<< 8)) := rfl
    _ = Nat.repeat crcBit 8 (Nat.repeat crcBit 8 (c ^^^ x)) := by
      rw [← repeat_crcBit_zeroExtend (x.extractLsb' 0 8) (Nat.le_refl 8), ← repeat_crcBit_xor, BitVec.xor_assoc,
        xor_bytes]

theorem crcFold_be16_eq_zero_iff (c x : Word) : crcFold c (be16 x) = 0#16 ↔ x = c := by
  rw [crcFold_be16, repeat_crcBit_eq_zero_iff, repeat_crcBit_eq_zero_iff, BitVec.xor_eq_zero_iff, eq_comm]

/-- Settles O3: the checksum of `s` is the one word that folds its own register to 0. -/
theorem residueIsZeroExactlyForTheOwnChecksum : Obligations.ResidueIsZeroExactlyForTheOwnChecksum := by
  refine ⟨fun s => ?_, crcFold_be16_eq_zero_iff⟩
  rw [checksum, crcFold_append]
  exact (crcFold_be16_eq_zero_iff _ _).mpr rfl

/-! ### Sequences of operations -/

section
variable {i : Instr} {s t : State}

theorem runOps_cons (h : exec i s = .next t) (more : List Instr) : runOps (i :: more) s = runOps more t := by
  rw [runOps, h]

theorem runOps_append {ops : List Instr} (h : runOps ops s = .next t) (more : List Instr) :
    runOps (ops ++ more) s = runOps more t := by
  induction ops generalizing s with
  | nil => cases h; rfl
  | cons i ops ih =>
    obtain ⟨u, hu⟩ := exec_completes i s
    rw [runOps_cons hu] at h
    rw [List.cons_append, runOps_cons hu, ih h]

end

/-- No operation but `CS.INIT` changes `crc_acc` otherwise than by folding the bytes of a `CS.UPDATE`. -/
theorem exec_crcAcc {i : Instr} (hinit : i ≠ .csInit) (s : State) :
    ∃ t, exec i s = .next t ∧ t.crcAcc = crcFold s.crcAcc (updateBytes [i]) := by
  have untouched (hunused : usesAccumulator i = false) : ∃ t, exec i s = .next t ∧ t.crcAcc = s.crcAcc := by
    obtain ⟨t, hexec, hcrc, -⟩ := noOtherOperationTouchesTheAccumulator i s 0#16 hunused
    exact ⟨t, hexec, hcrc⟩
  cases i with
  | csInit => exact absurd rfl hinit
  | csUpdate bytes => exact ⟨_, exec_csUpdate bytes s, by simp [updateBytes]⟩
  | csRead | status => exact ⟨_, rfl, rfl⟩
  | csBlock _ | encode _ _ | decHdr _ _ | decFull _ _ _ | decode _ | feed _ | reset | reserved _ _ | frameHeader _ _
  | frameTrailer _ => exact untouched rfl

theorem updateBytes_cons (i : Instr) (more : List Instr) :
    updateBytes (i :: more) = updateBytes [i] ++ updateBytes more := by
  cases i with
  | csUpdate bytes => simp [updateBytes]
  | _ => rfl

theorem runOps_crcAcc {ops : List Instr} (hinit : Instr.csInit ∉ ops) (s : State) :
    ∃ t, runOps ops s = .next t ∧ t.crcAcc = crcFold s.crcAcc (updateBytes ops) := by
  induction ops generalizing s with
  | nil => exact ⟨s, rfl, rfl⟩
  | cons i more ih =>
    obtain ⟨hi, hmore⟩ := not_or.mp (mt List.mem_cons.mpr hinit)
    obtain ⟨t, hexec, ht⟩ := exec_crcAcc (Ne.symm hi) s
    obtain ⟨u, hrun, hu⟩ := ih hmore t
    exact ⟨u, (runOps_cons hexec more).trans hrun, by rw [hu, ht, updateBytes_cons i more, crcFold_append]⟩

/-- Settles O8: `crc_acc` is the fold of the bytes delivered since `CS.INIT`, whatever stands between. -/
theorem streamedUpdatesEqualTheBlock : Obligations.StreamedUpdatesEqualTheBlock := by
  intro ops s hinit
  obtain ⟨t, hrun, ht⟩ := runOps_crcAcc hinit ({ s with crcAcc := 0xFFFF#16 }.respond (.ok .nothing))
  refine ⟨t.respond (.ok (.value t.crcAcc)), _, checksum (updateBytes ops), ?_, exec_csBlock (updateBytes ops) s, ?_,
    ?_⟩
  · rw [List.cons_append, runOps_cons (exec_csInit s), runOps_append hrun]
    exact runOps_cons (exec_csRead t) []
  · rw [State.respond_outbox, List.getLast?_concat, ht]
    rfl
  · rw [State.respond_outbox, List.getLast?_concat]

end Sys2Proof.Machine
end

section
/-!
42_stream_decoder.md R207 and 30_encoding.md R94, R95, R100: the read-out of the state, and the response packets.
-/

namespace Sys2Proof.Machine

/-- Settles O26: `STATUS` answers its view of the state, whose fields are written out for each value of `state`. -/
theorem statusReadsOutTheState : Obligations.StatusReadsOutTheState := by
  refine ⟨decode_packetOf .status [], fun s => ⟨_, rfl, rfl, ?_, rfl⟩, by decide⟩
  rw [Response.packet, Reply.body]
  cases hp : s.phase <;> simp [State.statusView, hp, phaseCode, okCode, countField, faultCode]

/-- Settles O51: each layout is the equation of `Response.packet` for that reply or failure. -/
theorem responsePacketsHaveTheirLayout : Obligations.ResponsePacketsHaveTheirLayout :=
  ⟨fun _ => ⟨_, rfl⟩, rfl, fun _ => rfl, fun _ => rfl, fun _ => rfl, fun _ => rfl, fun _ => rfl, rfl, fun _ => rfl, rfl,
    rfl, rfl, rfl, rfl⟩

end Sys2Proof.Machine
end

section
/-!
41_frame_codec.md R153, R167, R168: which frames are valid, and that an encoded one is. 42_stream_decoder.md R210 to
R213: what the drain loop makes of frames, of noise and of rejected candidates in a stream.
-/

namespace Sys2Proof.Machine

/-! ### What the codec accepts -/

section
variable {bytes : List Byte} {o : Nat}

theorem decodeHeader_eq_ok_iff {h : Header} : decodeHeader bytes o = .ok h ↔
    4 ≤ avail bytes o ∧ byteAt bytes o = 0xAA#8 ∧
      h = { version := byteAt bytes (o + 1), length := u16be bytes (o + 2) } := by
  unfold decodeHeader
  split
  case isTrue hshort => exact iff_of_false nofun fun ⟨hlen, _⟩ => absurd hshort (Nat.not_lt.mpr hlen)
  case isFalse hlen =>
    split
    case isTrue hmarker => exact iff_of_false nofun fun ⟨_, hmarker', _⟩ => hmarker hmarker'
    case isFalse hmarker =>
      exact ⟨fun hh => ⟨Nat.not_lt.mp hlen, not_not.mp hmarker, (Except.ok.inj hh).symm⟩,
        fun ⟨_, _, hh⟩ => congrArg _ hh.symm⟩

theorem decodeFull_eq_ok_iff {l : Word} {f : Frame} : decodeFull bytes o l = .ok f ↔
    7 + l.toNat ≤ avail bytes o ∧
      checksum (slice bytes (o + 1) (o + 4 + l.toNat)) = u16be bytes (o + 4 + l.toNat) ∧
      byteAt bytes (o + 6 + l.toNat) = 0x55#8 ∧
      f = { version := byteAt bytes (o + 1), length := l, payload := slice bytes (o + 4) (o + 4 + l.toNat),
            checksum := u16be bytes (o + 4 + l.toNat) } := by
  unfold decodeFull
  dsimp only
  split
  case isTrue hshort => exact iff_of_false nofun fun ⟨hlen, _⟩ => absurd hshort (Nat.not_lt.mpr hlen)
  case isFalse hlen =>
    split
    case isTrue hsum => exact iff_of_false nofun fun ⟨_, hsum', _⟩ => hsum hsum'
    case isFalse hsum =>
      split
      case isTrue hend => exact iff_of_false nofun fun ⟨_, _, hend', _⟩ => hend hend'
      case isFalse hend =>
        exact ⟨fun hf => ⟨Nat.not_lt.mp hlen, not_not.mp hsum, not_not.mp hend, (Except.ok.inj hf).symm⟩,
          fun ⟨_, _, _, hf⟩ => congrArg _ hf.symm⟩

/-- A frame is valid at an offset exactly if header and body are accepted there (41_frame_codec.md R168). -/
theorem validFrameAt_iff_decode : ValidFrameAt bytes o ↔
    ∃ h f, decodeHeader bytes o = .ok h ∧ decodeFull bytes o h.length = .ok f := by
  constructor
  · rintro ⟨hfour, hmarker, hlen, hsum, hend⟩
    exact ⟨_, _, decodeHeader_eq_ok_iff.mpr ⟨hfour, hmarker, rfl⟩,
      decodeFull_eq_ok_iff.mpr ⟨hlen, hsum.symm, hend, rfl⟩⟩
  · rintro ⟨h, f, hheader, hfull⟩
    obtain ⟨hfour, hmarker, rfl⟩ := decodeHeader_eq_ok_iff.mp hheader
    obtain ⟨hlen, hsum, hend, -⟩ := decodeFull_eq_ok_iff.mp hfull
    exact ⟨hfour, hmarker, hlen, hsum.symm, hend⟩

theorem payloadAt_of_decode {h : Header} {f : Frame} (hheader : decodeHeader bytes o = .ok h)
    (hfull : decodeFull bytes o h.length = .ok f) : payloadAt bytes o = f.payload := by
  obtain ⟨-, -, rfl⟩ := decodeHeader_eq_ok_iff.mp hheader
  obtain ⟨-, -, -, rfl⟩ := decodeFull_eq_ok_iff.mp hfull
  rfl

theorem decodeFrame_eq_ok_iff {f : Frame} : decodeFrame bytes = .ok f ↔
    ∃ h, decodeHeader bytes 0 = .ok h ∧ decodeFull bytes 0 h.length = .ok f := by
  cases hheader : decodeHeader bytes 0 with
  | error e => simp [decodeFrame_of_header_error hheader]
  | ok h => simp [decodeFrame_of_header_ok hheader]

end

/-! ### The answers of the codec -/

theorem next_respond_inj (s : State) (r r' : Response) :
    (.next { s with outbox := s.outbox ++ [r] } : Host.Outcome State Fault Refusal) =
      .next { s with outbox := s.outbox ++ [r'] } ↔ r = r' := by
  simp

theorem ofResult_map_eq_ok_iff {α : Type} {mk : α → Reply} (hmk : Function.Injective mk) (result : Except Failure α)
    (a : α) : Response.ofResult (result.map mk) = .ok (mk a) ↔ result = .ok a := by
  cases result with
  | error f => exact iff_of_false nofun nofun
  | ok b => simp [Response.ofResult, Except.map, hmk.eq_iff]

theorem frame_injective : Function.Injective Reply.frame := fun _ _ h => Reply.frame.inj h

theorem header_injective : Function.Injective Reply.header := fun _ _ h => Reply.header.inj h

/-- Settles O17: an answer is a header or a frame exactly if the codec function accepts. -/
theorem decodeOkExactlyForValidFrames : Obligations.DecodeOkExactlyForValidFrames := by
  intro bytes s
  refine ⟨?_, fun o => ?_⟩
  · simp only [exec_decode, next_respond_inj, ofResult_map_eq_ok_iff frame_injective, decodeFrame_eq_ok_iff,
      validFrameAt_iff_decode]
    exact exists_comm
  · simp only [exec_decHdr, exec_decFull, next_respond_inj, ofResult_map_eq_ok_iff frame_injective,
      ofResult_map_eq_ok_iff header_injective, validFrameAt_iff_decode]

/-! ### Encoded frames -/

theorem frameOf_eq_header (v : Byte) (p : List Byte) : frameOf v p =
    headerBytes v (BitVec.ofNat 16 p.length) ++ (p ++ trailerBytes (checksum (frameBody v p))) := by
  simp [frameOf, frameBody, headerBytes]

theorem frameOf_length (v : Byte) (p : List Byte) : (frameOf v p).length = 7 + p.length := by
  rw [frameOf_eq_header, List.length_append, headerBytes_length, List.length_append, trailerBytes_length]
  omega

theorem u16be_headerBytes (v : Byte) (l : Word) (rest : List Byte) : u16be (headerBytes v l ++ rest) 2 = l :=
  u16be_append_be16 [0xAA#8, v] rest l

theorem toNat_ofNat_length {p : List Byte} (h : p.length ≤ 65535) : (BitVec.ofNat 16 p.length).toNat = p.length := by
  rw [BitVec.toNat_ofNat]; exact Nat.mod_eq_of_lt (by omega)

theorem decodeHeader_frameOf (v : Byte) (p : List Byte) :
    decodeHeader (frameOf v p) 0 = .ok { version := v, length := BitVec.ofNat 16 p.length } := by
  refine decodeHeader_eq_ok_iff.mpr ⟨by rw [avail_zero, frameOf_length]; omega, rfl, ?_⟩
  rw [frameOf_eq_header, u16be_headerBytes]
  rfl

theorem decodeFull_frameOf (v : Byte) {p : List Byte} (h : p.length ≤ 65535) (rest : List Byte) :
    decodeFull (frameOf v p ++ rest) 0 (BitVec.ofNat 16 p.length) =
      .ok { version := v, length := BitVec.ofNat 16 p.length, payload := p, checksum := checksum (frameBody v p) } := by
  rw [decodeFull_append (by rw [frameOf_length, toNat_ofNat_length h]), frameOf_eq]
  exact decodeFull_span [] 0xAA#8 v _ _ h

theorem exec_encode_of_le (v : Byte) {p : List Byte} (h : p.length ≤ 65535) (s : State) :
    exec (.encode v p) s = .next { s with outbox := s.outbox ++ [.ok (.encoded (frameOf v p))] } := by
  rw [exec_encode, encodeFrame_of_le v h]
  rfl

/-- Settles O11: the codec accepts what it encoded, and so the frame is valid. -/
theorem encodedFrameIsValid : Obligations.EncodedFrameIsValid := by
  intro v p s h
  have hheader := decodeHeader_frameOf v p
  have hfull := decodeFull_frameOf v h []
  rw [List.append_nil] at hfull
  refine ⟨frameOf v p, exec_encode_of_le v h s, frameOf_length v p, rfl, ?_, ?_, payloadAt_of_decode hheader hfull, rfl⟩
  · rw [frameOf_eq, List.getLast?_concat]
  · exact validFrameAt_iff_decode.mpr ⟨_, _, hheader, hfull⟩

/-! ### Rows of the table by the codec's outcome -/

section
variable {n : Nat} {s t : State} {ps : List (List Byte)}

/-- A candidate that `DEC.FULL` accepts is emitted (42_stream_decoder.md R200). -/
theorem Drains.of_decodeFull_ok {f : Frame} (hp : s.phase = .bodyWait) (hd : decodeFull s.buffer 0 s.capLen = .ok f)
    (h : Drains n { s with buffer := s.buffer.drop (7 + s.capLen.toNat), capLen := 0#16, phase := .scanning } t ps) :
    Drains (n + 1) s t (f.payload :: ps) := by
  rcases decodeFull_cases s.buffer s.capLen with ⟨-, hd'⟩ | ⟨-, -, hd'⟩ | ⟨-, -, -, hd'⟩ | ⟨hlen, hc, he, hd'⟩ <;>
    cases hd.symm.trans hd'
  exact .emit hp hlen hc he h

/-- A candidate that `DEC.FULL` rejects costs an event and a byte (60_exceptions.md R250). -/
theorem Drains.of_decodeFull_error {f : Failure} (hp : s.phase = .bodyWait)
    (hd : decodeFull s.buffer 0 s.capLen = .error f) (hlen : 7 + s.capLen.toNat ≤ s.buffer.length)
    (h : Drains n (afterRejection s (failureCode f)) t ps) : Drains (n + 1) s t ps := by
  rcases decodeFull_cases s.buffer s.capLen with ⟨hlen', -⟩ | ⟨-, hc, hd'⟩ | ⟨-, hc, he, hd'⟩ | ⟨-, -, -, hd'⟩
  · omega
  · cases hd.symm.trans hd'; exact .badChecksum hp hlen hc h
  · cases hd.symm.trans hd'; exact .badEndMarker hp hlen hc he h
  · cases hd.symm.trans hd'

/-- A header at the front of the buffer opens a candidate of its declared length (42_stream_decoder.md R197, R198). -/
theorem Drains.of_headerBytes {v : Byte} {l : Word} {rest : List Byte} (hp : s.phase = .scanning)
    (hb : s.buffer = headerBytes v l ++ rest)
    (h : Drains n { s with buffer := headerBytes v l ++ rest, capLen := l, phase := .bodyWait } t ps) :
    Drains (n + 2) s t ps := by
  refine .marker [] (v :: be16 l ++ rest) hp hb (by simp) (.header rfl (by simp) rfl ?_)
  exact (u16be_headerBytes v l rest).symm ▸ h

/-- A frame whose header has been read is emitted (42_stream_decoder.md R200). -/
theorem Drains.of_frame_body {v : Byte} {p rest : List Byte} (hlen : p.length ≤ 65535) (hp : s.phase = .bodyWait)
    (hb : s.buffer = frameOf v p ++ rest) (hcap : s.capLen = BitVec.ofNat 16 p.length)
    (h : Drains n { s with buffer := rest, capLen := 0#16, phase := .scanning } t ps) :
    Drains (n + 1) s t (p :: ps) := by
  have hdrop : s.buffer.drop (7 + s.capLen.toNat) = rest := by
    rw [hb, hcap, toNat_ofNat_length hlen, ← frameOf_length v p, List.drop_left]
  refine .of_decodeFull_ok hp (by rw [hb, hcap]; exact decodeFull_frameOf v hlen rest) ?_
  rw [hdrop]
  exact h

end

/-! ### A stream, scanned from its first byte -/

/-- The state that has this stream to scan. -/
def State.scanning (s : State) (stream : List Byte) : State :=
  { s with buffer := stream, capLen := 0#16, phase := .scanning }

/-- The decoder's values are those after reset. -/
def Idle (s : State) : Prop := s.phase = .scanning ∧ s.buffer = [] ∧ s.capLen = 0#16

section
variable {n : Nat} {s t : State} {ps : List (List Byte)}

theorem Idle.buffer_eq (h : Idle s) : s.buffer = [] := by
  obtain ⟨-, hb, -⟩ := h
  exact hb

theorem Idle.appendChunk (h : Idle s) (chunk : List Byte) : s.appendChunk chunk = s.scanning chunk := by
  obtain ⟨hp, hb, hc⟩ := h
  rw [State.appendChunk, State.scanning, hb, ← hp, ← hc]
  rfl

theorem Idle.scanning_nil (h : Idle s) : s.scanning [] = s := by
  rw [← h.appendChunk, s.appendChunk_nil]

theorem Idle.exec_feed (h : Idle s) {chunk : List Byte} (hfault : s.fault = false) (hfits : chunk.length ≤ s.maxBuf)
    (hrun : Drains n (s.scanning chunk) t ps) : exec (.feed chunk) s = .next (t.respond (.ok (.payloads ps))) := by
  exact exec_feed_of_drains hfault (by simpa [h.buffer_eq] using hfits) (h.appendChunk chunk ▸ hrun)

theorem drains_markerless {stream : List Byte} (hm : 0xAA#8 ∉ stream) :
    Drains 1 (s.scanning stream) (s.scanning []) [] :=
  .noMarker rfl hm

theorem drains_noise {noise stream : List Byte} (hn : 0xAA#8 ∉ noise) (h : Drains n (s.scanning stream) t ps) :
    Drains n (s.scanning (noise ++ stream)) t ps :=
  .noise rfl rfl hn h

theorem drains_frame (v : Byte) {p : List Byte} (hlen : p.length ≤ 65535) {stream : List Byte}
    (h : Drains n (s.scanning stream) t ps) : Drains (n + 3) (s.scanning (frameOf v p ++ stream)) t (p :: ps) := by
  refine .of_headerBytes rfl (by rw [frameOf_eq_header, List.append_assoc]; rfl) ?_
  rw [← List.append_assoc, ← frameOf_eq_header]
  exact .of_frame_body hlen rfl rfl rfl h

/-- A whole candidate that `DEC.FULL` rejects leaves all its bytes but the first to be scanned (42_stream_decoder.md
R211). -/
theorem drains_rejected {v : Byte} {l : Word} {body stream : List Byte} {f : Failure}
    (hlen : body.length = 3 + l.toNat) (hd : decodeFull (headerBytes v l ++ body) 0 l = .error f)
    (h : Drains n ((s.record [failureCode f]).scanning (v :: be16 l ++ body ++ stream)) t ps) :
    Drains (n + 3) (s.scanning (headerBytes v l ++ body ++ stream)) t ps := by
  have hspan : 7 + l.toNat ≤ (headerBytes v l ++ body).length := by
    rw [List.length_append, headerBytes_length, hlen]; omega
  refine .of_headerBytes rfl (by rw [List.append_assoc]; rfl) ?_
  rw [← List.append_assoc]
  refine .of_decodeFull_error rfl ((decodeFull_append (by omega) stream).trans hd) ?_ h
  exact hspan.trans (by simp)

end

theorem eq_headerBytes_append {b : List Byte} (h : 4 ≤ b.length) (hm : byteAt b 0 = 0xAA#8) :
    ∃ v l body, b = headerBytes v l ++ body := by
  match b with
  | m :: v :: hi :: lo :: body =>
    obtain rfl : m = 0xAA#8 := hm
    exact ⟨v, wordOf hi lo, body, by rw [headerBytes, be16_wordOf]; rfl⟩
  | [] | [_] | [_, _] | [_, _, _] => simp at h

/-- Settles O33: without a marker the whole chunk is noise; the bound is tested first. -/
theorem floodOverflowsOnlyInOneLargeChunk : Obligations.FloodOverflowsOnlyInOneLargeChunk := by
  intro chunk s hm hp hb hc hfault hmax
  have hidle : Idle s := ⟨hp, hb, hc⟩
  split_ifs with hfits
  · rw [hidle.exec_feed hfault (hmax ▸ hfits) (drains_markerless hm), hidle.scanning_nil]
    rfl
  · have hover : s.maxBuf < s.buffer.length + chunk.length := by rw [hb, hmax]; simpa using hfits
    exact exec_feed_of_eq (feedChunk_of_maxBuf_lt hfault hover)

/-- Settles O18: the codec and the drain loop both accept what `ENCODE` answered. -/
theorem decodeOfEncodeGivesTheFrameBack : Obligations.DecodeOfEncodeGivesTheFrameBack := by
  intro v p s h
  have hfull := decodeFull_frameOf v h []
  rw [List.append_nil] at hfull
  refine ⟨frameOf v p, _, exec_encode_of_le v h s, rfl, ?_, fun maxBuf obs hfits => ?_⟩
  · rw [exec_decode, decodeFrame_eq_ok_iff.mpr ⟨_, decodeHeader_frameOf v p, hfull⟩]
    rfl
  · have hidle : Idle (State.create maxBuf obs) := ⟨rfl, rfl, rfl⟩
    have hrun := drains_frame (s := State.create maxBuf obs) v h (drains_markerless (stream := []) (by simp))
    rw [List.append_nil] at hrun
    rw [hidle.exec_feed rfl hfits hrun]
    rfl

theorem drains_frames (s : State) {parts : List (List Byte × Byte × List Byte)} {tail : List Byte}
    (hparts : ∀ g ∈ parts, 0xAA#8 ∉ g.1 ∧ g.2.2.length ≤ 65535) (htail : 0xAA#8 ∉ tail) :
    ∃ n, Drains n (s.scanning ((parts.flatMap fun g => g.1 ++ frameOf g.2.1 g.2.2) ++ tail)) (s.scanning [])
      (parts.map fun g => g.2.2) := by
  induction parts with
  | nil => exact ⟨1, drains_markerless htail⟩
  | cons g more ih =>
    obtain ⟨⟨hnoise, hlen⟩, hmore⟩ := List.forall_mem_cons.mp hparts
    obtain ⟨n, hrun⟩ := ih hmore
    refine ⟨n + 3, ?_⟩
    rw [List.flatMap_cons, List.append_assoc, List.append_assoc, List.map_cons]
    exact drains_noise hnoise (drains_frame g.2.1 hlen hrun)

/-- Settles O30, by induction on the frames. -/
theorem framesAmongMarkerlessNoiseAreEmitted : Obligations.FramesAmongMarkerlessNoiseAreEmitted := by
  intro parts tail s hparts htail hp hb hc hfault hfits
  have hidle : Idle s := ⟨hp, hb, hc⟩
  obtain ⟨n, hrun⟩ := drains_frames s hparts htail
  rw [hidle.exec_feed hfault hfits hrun, hidle.scanning_nil]
  rfl

/-- Settles O31: the rejected candidate leaves only noise before the valid frame. -/
theorem corruptedFrameCostsOneEvent : Obligations.CorruptedFrameCostsOneEvent := by
  intro rest f v p s hnoise hrest hd h hp hb hc hfault hfits
  have hidle : Idle (s.record [failureCode f]) := ⟨hp, hb, hc⟩
  obtain ⟨w, l, body, hcand⟩ : ∃ w l body, 0xAA#8 :: rest = headerBytes w l ++ body :=
    eq_headerBytes_append (by rw [List.length_cons, hrest]; omega) rfl
  obtain rfl : rest = w :: be16 l ++ body := List.tail_eq_of_cons_eq hcand
  have hlength : u16be (0xAA#8 :: (w :: be16 l ++ body)) 2 = l := u16be_headerBytes w l body
  rw [hlength] at hd
  have hbody : body.length = 3 + l.toNat := by
    rw [lengthAt, hlength] at hrest
    simp at hrest
    omega
  have hrun : Drains 7 (s.scanning (headerBytes w l ++ body ++ (frameOf v p ++ [])))
      ((s.record [failureCode f]).scanning []) [p] :=
    drains_rejected hbody hd (drains_noise hnoise (drains_frame v h (drains_markerless (by simp))))
  rw [List.append_nil, hidle.scanning_nil] at hrun
  exact Idle.exec_feed ⟨hp, hb, hc⟩ hfault (by simp [frameOf_length] at hfits ⊢; omega) hrun

/-- Settles O41: four bytes are fewer than the candidate has, whatever its length. -/
theorem frameHeaderOpensACandidate : Obligations.FrameHeaderOpensACandidate := by
  intro v l s hp hb hfault hfits
  have hrun : Drains 3 (s.appendChunk (headerBytes v l))
      { s.appendChunk (headerBytes v l) with buffer := headerBytes v l ++ [], capLen := l, phase := .bodyWait } [] := by
    refine .of_headerBytes hp (by simp [hb]) (.shortBody rfl ?_)
    simp
    omega
  rw [exec_of_fedBytes_eq_some (i := .frameHeader v l) rfl]
  exact congrArg _ (feedChunk_of_drains hfault (by simpa [hb] using hfits) hrun)

/-- Settles O42: header, payload and trailer are the frame. -/
theorem frameTrailerCompletesACandidate : Obligations.FrameTrailerCompletesACandidate := by
  intro v p s h hp hcap hfault hfits hb
  have hframe : s.buffer ++ trailerBytes (checksum (frameBody v p)) = frameOf v p ++ [] := by
    rw [hb, List.append_nil]; rfl
  have hrun : Drains 2 (s.appendChunk (trailerBytes (checksum (frameBody v p)))) (s.scanning []) [p] :=
    .of_frame_body h hp hframe hcap (drains_markerless (by simp))
  have hlen : s.buffer.length + (trailerBytes (checksum (frameBody v p))).length ≤ s.maxBuf := by
    rw [← List.length_append, hframe, List.append_nil, frameOf_length]; exact hfits
  rw [exec_of_fedBytes_eq_some (i := .frameTrailer _) rfl]
  exact congrArg _ (feedChunk_of_drains hfault hlen hrun)

end Sys2Proof.Machine
end

section
/-!
42_stream_decoder.md R208, R210: a run over a stream is two runs, one over each of its parts; so the rest of a frame
does what its first bytes left undone.
-/

namespace Sys2Proof.Machine

/-! ### Two runs, one after the other -/

section
variable {n m : Nat} {s t u : State} {ps qs : List (List Byte)}

/-- A run does not look at the responses. -/
theorem Drains.respond (h : Drains n s t ps) (r : Response) : Drains n (s.respond r) (t.respond r) ps := by
  obtain ⟨codes, htransfer⟩ := h.transfer
  have ht : t = (s.record codes).withDecoder t := (h.unique (htransfer s)).1
  have hrun : Drains n (s.respond r) (((s.record codes).withDecoder t).respond r) ps := htransfer (s.respond r)
  rwa [← ht] at hrun

/-- A run over a stream splits where the stream does. -/
theorem Drains.split {a b : List Byte} (h : Drains n (s.appendChunk (a ++ b)) u ps)
    (ha : Drains m (s.appendChunk a) t qs) : ∃ k rs, Drains k (t.appendChunk b) u rs ∧ ps = qs ++ rs := by
  obtain ⟨k, -, hb⟩ := drains_drain (t.appendChunk b)
  obtain ⟨j, hab⟩ := ha.append b hb
  have happend : (s.appendChunk a).appendChunk b = s.appendChunk (a ++ b) := by
    simp only [State.appendChunk, List.append_assoc]
  rw [happend] at hab
  obtain ⟨rfl, rfl⟩ := hab.unique h
  exact ⟨k, _, hb, rfl⟩

end

theorem State.respond_respond (s : State) (r r' : Response) :
    (s.respond r).respond r' = { s with outbox := s.outbox ++ [r, r'] } := by
  rw [State.respond, State.respond, List.append_assoc]
  rfl

/-- The first bytes of a frame, fewer than all, emit nothing and wait for the rest (42_stream_decoder.md R210). -/
theorem drains_take_frame (s : State) (v : Byte) {p : List Byte} (h : p.length ≤ 65535) {k : Nat}
    (hk : k < 7 + p.length) : ∃ n t, Drains n (s.scanning ((frameOf v p).take k)) t [] ∧
      t.phase = if k = 0 then .scanning else if k < 4 then .headerWait else .bodyWait := by
  rcases Nat.lt_or_ge k 4 with hshort | hlong
  · match k with
    | 0 => exact ⟨1, s.scanning [], drains_markerless (by simp), rfl⟩
    | j + 1 =>
      have hwait : Drains 1 { s.scanning ((frameOf v p).take (j + 1)) with phase := .headerWait } _ [] :=
        .shortHeader rfl (by simp [State.scanning]; omega)
      refine ⟨2, _, .marker [] ((frameOf v p).tail.take j) rfl rfl (by simp) hwait, ?_⟩
      rw [if_neg (by omega), if_pos hshort]
  · have htake : (frameOf v p).take k = headerBytes v (BitVec.ofNat 16 p.length) ++
        (p ++ trailerBytes (checksum (frameBody v p))).take (k - 4) := by
      rw [frameOf_eq_header, List.take_append, headerBytes_length, List.take_of_length_le (by simpa using hlong)]
    refine ⟨3, _, .of_headerBytes rfl htake (.shortBody rfl ?_), ?_⟩
    · rw [← htake, List.length_take, toNat_ofNat_length h]; omega
    · rw [if_neg (by omega), if_neg (by omega)]

/-- Settles O29: the rest of the frame does what is left of the whole frame's run. -/
theorem truncationNeverEmits : Obligations.TruncationNeverEmits := by
  intro v p k s h hk hp hb hc hfault hfits
  have hidle : Idle s := ⟨hp, hb, hc⟩
  obtain ⟨n, t, hfirst, hphase⟩ := drains_take_frame s v h hk
  have hwhole : Drains 4 (s.scanning (frameOf v p ++ [])) (s.scanning []) [p] :=
    drains_frame v h (drains_markerless (by simp))
  rw [List.append_nil, hidle.scanning_nil, ← hidle.appendChunk, ← List.take_append_drop k (frameOf v p)] at hwhole
  rw [← hidle.appendChunk] at hfirst
  obtain ⟨m, qs, hsecond, rfl⟩ := hwhole.split hfirst
  have hlen : (frameOf v p).length ≤ s.maxBuf := frameOf_length v p ▸ hfits
  have hheld : t.buffer.length ≤ ((frameOf v p).take k).length := by simpa [hb] using hfirst.buffer_length_le
  have hfits₁ : s.buffer.length + ((frameOf v p).take k).length ≤ s.maxBuf := by simp [hb]; omega
  have hfits₂ : t.buffer.length + ((frameOf v p).drop k).length ≤ t.maxBuf := by
    rw [hfirst.maxBuf_eq, State.appendChunk_maxBuf]
    simp only [List.length_take, List.length_drop] at hheld ⊢
    omega
  refine ⟨frameOf v p, t.respond (.ok (.payloads [])), exec_encode_of_le v h s,
    exec_feed_of_drains hfault hfits₁ hfirst, ?_, hphase, ?_⟩
  · rw [State.respond_outbox, hfirst.outbox_eq, State.appendChunk_outbox]
  · rw [exec_feed_of_drains (s := t.respond _) (hfirst.fault_eq.trans hfault) hfits₂ (hsecond.respond _),
      State.respond_respond]

end Sys2Proof.Machine
end

section
/-!
42_stream_decoder.md R208, R209, R212: the `FEED`s of a stream's chunks do together what the drain loop does on the
whole stream, and that is the document's `parse` of it.
-/

namespace Sys2Proof.Machine

/-! ### The `FEED`s of the chunks -/

/-- The responses of accepted `FEED`s that emitted these payloads. -/
def feedResponses (qs : List (List (List Byte))) : List Response := qs.map fun q => .ok (.payloads q)

theorem emittedPayloads_feedResponses (qs : List (List (List Byte))) :
    emittedPayloads (feedResponses qs) = qs.flatten := by
  induction qs with
  | nil => rfl
  | cons q more ih => exact congrArg (q ++ ·) ih

theorem runOps_completes (ops : List Instr) (s : State) : ∃ t, runOps ops s = .next t := by
  induction ops generalizing s with
  | nil => exact ⟨s, rfl⟩
  | cons i more ih =>
    obtain ⟨t, hexec⟩ := exec_completes i s
    obtain ⟨u, hrun⟩ := ih t
    exact ⟨u, (runOps_cons hexec more).trans hrun⟩

/-- A `FEED` leaves `fault` 0 only if it was 0 and the chunk is within the bound (10_state.md R26). -/
theorem feedChunk_fault_eq_false_iff (chunk : List Byte) (s : State) :
    (feedChunk chunk s).fault = false ↔ s.fault = false ∧ s.buffer.length + chunk.length ≤ s.maxBuf := by
  rcases feedChunk_cases chunk s with ⟨hfault, hfeed⟩ | ⟨hfault, hover, hfeed⟩ | ⟨hfault, hfits, hfeed⟩
  · simp [hfeed, State.answerFailure_eq, hfault]
  · simp [hfeed, State.raiseOverflow_eq, hover]
  · simp [hfeed, hfault, hfits]

section
variable {chunks : List (List Byte)} {s u : State}

theorem runOps_feed_cons (c : List Byte) (more : List (List Byte)) (s : State) :
    runOps ((c :: more).map .feed) s = runOps (more.map .feed) (feedChunk c s) :=
  runOps_cons (exec_feed c s) _

theorem fault_of_runOps_feeds (h : runOps (chunks.map .feed) s = .next u) (hfault : u.fault = false) :
    s.fault = false := by
  induction chunks generalizing s with
  | nil => cases h; exact hfault
  | cons c more ih =>
    rw [runOps_feed_cons] at h
    exact ((feedChunk_fault_eq_false_iff c s).mp (ih h)).1

/-- A stream that fits as a whole overflows in no chunk. -/
theorem runOps_feeds_fault (h : runOps (chunks.map .feed) s = .next u) (hfault : s.fault = false)
    (hfits : s.buffer.length + chunks.flatten.length ≤ s.maxBuf) : u.fault = false := by
  induction chunks generalizing s with
  | nil => cases h; exact hfault
  | cons c more ih =>
    rw [runOps_feed_cons] at h
    rw [List.flatten_cons, List.length_append] at hfits
    obtain ⟨n, -, hrun⟩ := drains_drain (s.appendChunk c)
    have hfeed := feedChunk_of_drains hfault (by omega) hrun
    have hheld : (feedChunk c s).buffer.length ≤ s.buffer.length + c.length := by
      simpa [hfeed] using hrun.buffer_length_le
    have hbound : (feedChunk c s).maxBuf = s.maxBuf := by simp [hfeed, hrun.maxBuf_eq]
    exact ih h ((feedChunk_fault_eq_false_iff c s).mpr ⟨hfault, by omega⟩) (by omega)

/-- As long as no `FEED` overflows, the chunks' payloads together are those of the run over the whole stream, and so is
the state (42_stream_decoder.md R208). -/
theorem runOps_feeds_of_drains {n : Nat} {t : State} {ps : List (List Byte)} (hphase : PhaseInv s)
    (hrun : Drains n (s.appendChunk chunks.flatten) t ps) (h : runOps (chunks.map .feed) s = .next u)
    (hfault : u.fault = false) : ∃ qs : List (List (List Byte)),
      u = { t with outbox := s.outbox ++ feedResponses qs } ∧ qs.length = chunks.length ∧ qs.flatten = ps := by
  induction chunks generalizing n s t ps with
  | nil =>
    cases h
    rw [List.flatten_nil, State.appendChunk_nil] at hrun
    obtain ⟨rfl, rfl⟩ := hphase.drains_self.unique hrun
    exact ⟨[], by simp [feedResponses], rfl, rfl⟩
  | cons c more ih =>
    rw [runOps_feed_cons] at h
    obtain ⟨hs, hfits⟩ := (feedChunk_fault_eq_false_iff c s).mp (fault_of_runOps_feeds h hfault)
    obtain ⟨m, -, hhead⟩ := drains_drain (s.appendChunk c)
    obtain ⟨k, rs, htail, rfl⟩ := hrun.split hhead
    rw [feedChunk_of_drains hs hfits hhead] at h
    obtain ⟨qs, rfl, hlen, rfl⟩ := ih (s := (drain (s.appendChunk c)).1.respond _)
      (hhead.phaseInv (hphase.loopInv_appendChunk c)) (htail.respond _) h
    refine ⟨(drain (s.appendChunk c)).2 :: qs, ?_, by simp [hlen], rfl⟩
    rw [State.respond_outbox, hhead.outbox_eq, State.appendChunk_outbox, List.append_assoc]
    rfl

end

/-- Settles O27: both ways are the one run over the whole stream. -/
theorem chunkingDoesNotMatter : Obligations.ChunkingDoesNotMatter := by
  rintro chunks s ⟨hphase, -, -⟩ hfault hfits
  obtain ⟨n, -, hrun⟩ := drains_drain (s.appendChunk chunks.flatten)
  obtain ⟨u, hends⟩ := runOps_completes (chunks.map .feed) s
  obtain ⟨qs, rfl, hlen, hqs⟩ := runOps_feeds_of_drains hphase hrun hends (runOps_feeds_fault hends hfault hfits)
  refine ⟨_, _, _, qs, exec_feed_of_drains hfault hfits hrun, hends, ?_, rfl, hlen, hqs, rfl, rfl, rfl, rfl⟩
  rw [State.respond_outbox, hrun.outbox_eq, State.appendChunk_outbox]

/-- The `FEED`s of a stream after a reset: what they emit and leave is the run over the whole stream. -/
theorem runOps_feeds_create {chunks : List (List Byte)} {maxBuf : Nat} {obs : Bool} {u : State}
    (h : runOps (chunks.map .feed) (State.create maxBuf obs) = .next u) (hfault : u.fault = false) :
    ∃ n t, Drains n ((State.create maxBuf obs).scanning chunks.flatten) t (emittedPayloads u.outbox) ∧
      u.withDecoder t = u := by
  obtain ⟨n, -, hrun⟩ := drains_drain ((State.create maxBuf obs).appendChunk chunks.flatten)
  obtain ⟨qs, rfl, -, hqs⟩ := runOps_feeds_of_drains (inv_create maxBuf obs).1 hrun h hfault
  have houtbox : emittedPayloads ((State.create maxBuf obs).outbox ++ feedResponses qs) = qs.flatten :=
    emittedPayloads_feedResponses qs
  exact ⟨n, _, by rw [houtbox, hqs]; exact hrun, rfl⟩

/-! ### The parse of a stream -/

section
variable {k : Nat} {b : List Byte}

theorem parseWithin_noMarker (h : 0xAA#8 ∉ b) : parseWithin (k + 1) b = ([], []) := by
  rw [parseWithin, findMarker_eq_none.mpr h]

theorem parseWithin_noise {noise more : List Byte} (h : 0xAA#8 ∉ noise) :
    parseWithin (k + 1) (noise ++ 0xAA#8 :: more) = parseWithin (k + 1) (0xAA#8 :: more) := by
  have hfront : findMarker (0xAA#8 :: more) 0 = some 0 := findMarker_append_marker (noise := []) more (by simp)
  rw [parseWithin, parseWithin, findMarker_append_marker more h, hfront]
  simp only [List.drop_left, List.drop_zero]

theorem findMarker_of_byteAt_zero (hm : byteAt b 0 = 0xAA#8) : findMarker b 0 = some 0 := by
  obtain ⟨more, rfl⟩ := eq_cons_of_byteAt_zero hm
  exact findMarker_append_marker (noise := []) more (by simp)

variable {l : Word}

theorem parseWithin_shortHeader (hm : byteAt b 0 = 0xAA#8) (hlen : b.length < 4) : parseWithin (k + 1) b = ([], b) := by
  rw [parseWithin, findMarker_of_byteAt_zero hm]
  simp only [List.drop_zero, hlen, if_true]

theorem parseWithin_shortBody (hm : byteAt b 0 = 0xAA#8) (hl : l = u16be b 2) (hlen : b.length < 7 + l.toNat) :
    parseWithin (k + 1) b = ([], b) := by
  have hlen' : b.length < 7 + lengthAt b 0 := by rwa [hl] at hlen
  rw [parseWithin, findMarker_of_byteAt_zero hm]
  simp only [List.drop_zero, hlen', if_true, ite_self]

theorem parseWithin_ok {f : Frame} (hm : byteAt b 0 = 0xAA#8) (hl : l = u16be b 2) (hlen : 7 + l.toNat ≤ b.length)
    (hd : decodeFull b 0 l = .ok f) :
    parseWithin (k + 1) b =
      (f.payload :: (parseWithin k (b.drop (7 + l.toNat))).1, (parseWithin k (b.drop (7 + l.toNat))).2) := by
  have hlength : lengthAt b 0 = l.toNat := congrArg BitVec.toNat hl.symm
  rw [parseWithin, findMarker_of_byteAt_zero hm]
  simp only [List.drop_zero, hlength, ← hl, hd]
  rw [if_neg (by omega), if_neg (by omega)]

theorem parseWithin_error {f : Failure} (hm : byteAt b 0 = 0xAA#8) (hl : l = u16be b 2)
    (hlen : 7 + l.toNat ≤ b.length) (hd : decodeFull b 0 l = .error f) :
    parseWithin (k + 1) b = parseWithin k (b.drop 1) := by
  have hlength : lengthAt b 0 = l.toNat := congrArg BitVec.toNat hl.symm
  rw [parseWithin, findMarker_of_byteAt_zero hm]
  simp only [List.drop_zero, hlength, ← hl, hd]
  rw [if_neg (by omega), if_neg (by omega)]

end

/-- A run makes of the buffer what `parse` makes of it, given a candidate for each byte (42_stream_decoder.md R209). -/
theorem Drains.parseWithin_eq {n : Nat} {s t : State} {ps : List (List Byte)} (h : Drains n s t ps) :
    LoopInv s → ∀ {k}, s.buffer.length ≤ k → parseWithin (k + 1) s.buffer = (ps, t.buffer) := by
  induction h with
  | noMarker _ hm => exact fun _ _ _ => parseWithin_noMarker hm
  | shortHeader hp hlen => exact fun hs _ _ => parseWithin_shortHeader (hs.byteAt_zero hp) hlen
  | shortBody hp hlen =>
    intro hs k _
    obtain ⟨-, hm, hcap⟩ := hs.of_bodyWait hp
    exact parseWithin_shortBody hm hcap hlen
  | marker noise more hp hb hn _ ih =>
    intro hs k hk
    rw [hb] at hk ⊢
    rw [parseWithin_noise hn]
    exact ih (hs.marker hp more) (by simp at hk ⊢; omega)
  | header _ hlen hm _ ih => exact fun _ => ih (loopInv_header hlen hm)
  | badMarker hp _ hm _ _ => exact fun hs => absurd (hs.byteAt_zero hp) hm
  | @badChecksum _ s _ _ hp hlen hc _ ih =>
    intro hs k hk
    obtain ⟨-, hm, hcap⟩ := hs.of_bodyWait hp
    obtain ⟨k, rfl⟩ : ∃ j, k = j + 1 := ⟨k - 1, by omega⟩
    rw [parseWithin_error hm hcap hlen (decodeFull_of_badChecksum hlen hc)]
    exact ih (loopInv_afterRejection _ _) (by simp [afterRejection]; omega)
  | @badEndMarker _ s _ _ hp hlen hc he _ ih =>
    intro hs k hk
    obtain ⟨-, hm, hcap⟩ := hs.of_bodyWait hp
    obtain ⟨k, rfl⟩ : ∃ j, k = j + 1 := ⟨k - 1, by omega⟩
    rw [parseWithin_error hm hcap hlen (decodeFull_of_badEndMarker hlen hc he)]
    exact ih (loopInv_afterRejection _ _) (by simp [afterRejection]; omega)
  | emit hp hlen hc he _ ih =>
    intro hs k hk
    obtain ⟨-, hm, hcap⟩ := hs.of_bodyWait hp
    obtain ⟨k, rfl⟩ : ∃ j, k = j + 1 := ⟨k - 1, by omega⟩
    rw [parseWithin_ok hm hcap hlen (decodeFull_of_valid hlen hc he), ih (loopInv_emit _ _) (by simp; omega)]

theorem loopInv_scanning (s : State) (stream : List Byte) : LoopInv (s.scanning stream) := loopInv_emit s stream

/-- Between operations the buffer tells `state` and `cap_len` (10_state.md R37 to R39). -/
theorem PhaseInv.phase_eq {s : State} (h : PhaseInv s) :
    s.phase = (if s.buffer = [] then .scanning else if s.buffer.length < 4 then .headerWait else .bodyWait) ∧
    s.capLen = (if s.buffer.length < 4 then 0#16 else u16be s.buffer 2) := by
  obtain ⟨hscan, hhead, hbody⟩ := h
  cases hp : s.phase with
  | scanning =>
    obtain ⟨hb, hcap⟩ := hscan hp
    simp [hb, hcap]
  | headerWait =>
    obtain ⟨hpos, hlen, -, hcap⟩ := hhead hp
    have hne : s.buffer ≠ [] := List.ne_nil_of_length_pos hpos
    rw [if_neg hne, if_pos (by omega), if_pos (by omega)]
    exact ⟨rfl, hcap⟩
  | bodyWait =>
    obtain ⟨hlen, -, -, hcap⟩ := hbody hp
    have hne : s.buffer ≠ [] := List.ne_nil_of_length_pos (by omega)
    rw [if_neg hne, if_neg (by omega), if_neg (by omega)]
    exact ⟨rfl, hcap⟩

/-- Settles O28: the `FEED`s are one run over the stream, which is its parse. -/
theorem feedsEmitTheParseOfTheStream : Obligations.FeedsEmitTheParseOfTheStream := by
  intro chunks maxBuf obs
  obtain ⟨u, hends⟩ := runOps_completes (chunks.map .feed) (State.create maxBuf obs)
  refine ⟨u, hends, fun hfault => ?_⟩
  obtain ⟨n, t, hrun, hsame⟩ := runOps_feeds_create hends hfault
  have hparse : parse chunks.flatten = (emittedPayloads u.outbox, t.buffer) :=
    hrun.parseWithin_eq (loopInv_scanning _ _) (Nat.le_refl _)
  have hphase : PhaseInv (u.withDecoder t) := hrun.phaseInv (loopInv_scanning _ _)
  rw [hsame] at hphase
  have hbuffer : (u.withDecoder t).buffer = u.buffer := congrArg State.buffer hsame
  rw [hparse]
  exact ⟨rfl, hbuffer.symm, hphase.phase_eq⟩

/-! ### The frames in a stream -/

section
variable (stream : List Byte) (o : Nat)

theorem u16be_drop (i : Nat) : u16be (stream.drop o) i = u16be stream (o + i) := by
  rw [u16be, u16be, byteAt_drop, byteAt_drop, Nat.add_assoc]

theorem slice_drop (a b : Nat) : slice (stream.drop o) a b = slice stream (o + a) (o + b) := by
  rw [slice, slice, List.drop_drop, Nat.add_sub_add_left]

theorem lengthAt_drop : lengthAt (stream.drop o) 0 = lengthAt stream o := by
  rw [lengthAt, lengthAt, u16be_drop, Nat.zero_add]

theorem payloadAt_drop : payloadAt (stream.drop o) 0 = payloadAt stream o := by
  rw [payloadAt, payloadAt, lengthAt_drop, slice_drop, Nat.zero_add, ← Nat.add_assoc]

theorem validFrameAt_drop : ValidFrameAt (stream.drop o) 0 ↔ ValidFrameAt stream o := by
  simp only [ValidFrameAt, avail_eq, List.length_drop, Nat.sub_zero, lengthAt_drop, byteAt_drop, u16be_drop, slice_drop,
    Nat.zero_add, Nat.add_zero, Nat.add_assoc]

end

theorem EmittedFrom.mono {stream : List Byte} {a b : Nat} {ps : List (List Byte)} (h : EmittedFrom stream b ps)
    (hab : a ≤ b) : EmittedFrom stream a ps := by
  cases ps with
  | nil => trivial
  | cons p more =>
    obtain ⟨o, ho, hframe⟩ := h
    exact ⟨o, hab.trans ho, hframe⟩

/-- A run over the rest of a stream emits valid frames of the stream, in order (42_stream_decoder.md R212). -/
theorem Drains.emittedFrom {stream : List Byte} {n : Nat} {s t : State} {ps : List (List Byte)} (h : Drains n s t ps) :
    LoopInv s → ∀ {o}, s.buffer = stream.drop o → EmittedFrom stream o ps := by
  have rejected {s : State} {ps : List (List Byte)} {code : Byte}
      (ih : LoopInv (afterRejection s code) →
        ∀ {o}, (afterRejection s code).buffer = stream.drop o → EmittedFrom stream o ps) {o : Nat}
      (hb : s.buffer = stream.drop o) : EmittedFrom stream o ps := by
    have hdrop : s.buffer.drop 1 = stream.drop (o + 1) := by rw [hb, List.drop_drop]
    exact (ih (loopInv_afterRejection s code) hdrop).mono (Nat.le_succ o)
  induction h with
  | noMarker _ _ | shortHeader _ _ | shortBody _ _ => exact fun _ _ _ => trivial
  | marker noise more hp hb hn _ ih =>
    intro hs o ho
    have hdrop : 0xAA#8 :: more = stream.drop (o + noise.length) := by
      rw [← List.drop_drop, ← ho, hb, List.drop_left]
    exact (ih (hs.marker hp more) hdrop).mono (Nat.le_add_right _ _)
  | header _ hlen hm _ ih => exact fun _ _ ho => ih (loopInv_header hlen hm) ho
  | badMarker _ _ _ _ ih | badChecksum _ _ _ _ ih | badEndMarker _ _ _ _ _ ih => exact fun _ _ ho => rejected ih ho
  | @emit _ s _ _ hp hlen hc he _ ih =>
    intro hs o ho
    obtain ⟨hfour, hm, hcap⟩ := hs.of_bodyWait hp
    have hlength : lengthAt s.buffer 0 = s.capLen.toNat := congrArg BitVec.toNat hcap.symm
    have hvalid : ValidFrameAt s.buffer 0 := by
      refine ⟨by simpa using hfour, hm, ?_⟩
      simp only [hlength, avail_zero, Nat.zero_add]
      exact ⟨hlen, hc.symm, he⟩
    have hpayload : slice s.buffer 4 (4 + s.capLen.toNat) = payloadAt s.buffer 0 := by
      rw [payloadAt, hlength]
    have hrest : s.buffer.drop (7 + s.capLen.toNat) = stream.drop (o + 7 + lengthAt s.buffer 0) := by
      rw [hlength, ho, List.drop_drop, Nat.add_assoc]
    rw [ho, lengthAt_drop] at hrest
    refine ⟨o, Nat.le_refl o, ?_, ?_, ih (loopInv_emit _ _) ?_⟩
    · rwa [ho, validFrameAt_drop] at hvalid
    · rw [hpayload, ho, payloadAt_drop]
    · rw [ho]; exact hrest

/-- Settles O32: the `FEED`s are one run over the stream. -/
theorem emittedPayloadsAreValidFramesInOrder : Obligations.EmittedPayloadsAreValidFramesInOrder := by
  intro chunks maxBuf obs
  obtain ⟨u, hends⟩ := runOps_completes (chunks.map .feed) (State.create maxBuf obs)
  refine ⟨u, hends, fun hfault => ?_⟩
  obtain ⟨n, t, hrun, -⟩ := runOps_feeds_create hends hfault
  exact hrun.emittedFrom (loopInv_scanning _ _) rfl

end Sys2Proof.Machine
end
